-- ==== Sys2Proof/Word.lean ====
section
/-! DEFINITION. The word types of the controller (00_scope.md R10): a byte of the host interface or of a
register, the 16-bit CRC, and the 32 pulse slots of one chunk. -/

namespace Sys2Proof

/-- `byte` of 00_scope.md R10: a register, a parameter, a byte of a field. -/
abbrev Byte := BitVec 8

/-- `u16` of 00_scope.md R10: the running CRC. -/
abbrev Half := BitVec 16

/-- `u32` of 00_scope.md R10: 32 pulse slots, bit 31 the earliest in time (R13). -/
abbrev Slots := BitVec 32

end Sys2Proof
end

