-- ==== Sys2Proof/Syntax.lean ====
section
/-! DEFINITION. The instructions: the nineteen commands and the nine host bus accesses of spec/opcode_table.json
(30_encoding.md R81 and R98), one constructor each, and the frames in which a host presents them. -/

namespace Sys2Proof

/-- The nineteen documented command codes (30_encoding.md R81). -/
inductive Op where
  | scan | scanDel
  | write128 | writeVar | writeDel128 | writeDelVar
  | read128 | readVar | readDel128 | readDelVar
  | readId | verify128 | verifyVar
  | format | seek
  | readStatus | specify | writeSpecial | readSpecial
deriving DecidableEq, Repr

/-- One instruction (30_encoding.md R85, R98). A command carries its drive-select bits `sel` (command byte bits
7:6, R80) and its parameters in the order of R86. A bus access carries its offset where the row leaves one free,
and a write its data byte. -/
inductive Instr where
  /-- `SCAN`, 48_management_commands.md R400 -/
  | scan (sel : BitVec 2) (p0 p1 p2 p3 p4 : Byte)
  /-- `SCAN_DEL`, R400 -/
  | scanDel (sel : BitVec 2) (p0 p1 p2 p3 p4 : Byte)
  /-- `WRITE_128`, 47_write_commands.md R350 -/
  | write128 (sel : BitVec 2) (track sector : Byte)
  /-- `WRITE_VAR`, R351 -/
  | writeVar (sel : BitVec 2) (track sector sizeCount : Byte)
  /-- `WRITE_DEL_128`, R352 -/
  | writeDel128 (sel : BitVec 2) (track sector : Byte)
  /-- `WRITE_DEL_VAR`, R353 -/
  | writeDelVar (sel : BitVec 2) (track sector sizeCount : Byte)
  /-- `READ_128`, 46_read_commands.md R310 -/
  | read128 (sel : BitVec 2) (track sector : Byte)
  /-- `READ_VAR`, R311 -/
  | readVar (sel : BitVec 2) (track sector sizeCount : Byte)
  /-- `READ_DEL_128`, R312 -/
  | readDel128 (sel : BitVec 2) (track sector : Byte)
  /-- `READ_DEL_VAR`, R313 -/
  | readDelVar (sel : BitVec 2) (track sector sizeCount : Byte)
  /-- `READ_ID`, R316; the second parameter is ignored (30_encoding.md R89) -/
  | readId (sel : BitVec 2) (track ignored count : Byte)
  /-- `VERIFY_128`, R314 -/
  | verify128 (sel : BitVec 2) (track sector : Byte)
  /-- `VERIFY_VAR`, R315 -/
  | verifyVar (sel : BitVec 2) (track sector sizeCount : Byte)
  /-- `FORMAT`, 47_write_commands.md R365 -/
  | format (sel : BitVec 2) (track gap3 sizeCount gap5 gap1 : Byte)
  /-- `SEEK`, 44_seek.md R255 -/
  | seek (sel : BitVec 2) (track : Byte)
  /-- `READ_STATUS`, 48_management_commands.md R380 -/
  | readStatus (sel : BitVec 2)
  /-- `SPECIFY`, R381 -/
  | specify (sel : BitVec 2) (group v1 v2 v3 : Byte)
  /-- `WRITE_SPECIAL`, R383 -/
  | writeSpecial (sel : BitVec 2) (addr value : Byte)
  /-- `READ_SPECIAL`, R387 -/
  | readSpecial (sel : BitVec 2) (addr : Byte)
  /-- `RD_STATUS`, 42_host_registers.md R171 -/
  | rdStatus
  /-- `RD_RESULT`, R173 -/
  | rdResult
  /-- `RD_UNMAPPED`, R175, at offset 2 or 3 -/
  | rdUnmapped (off : BitVec 3)
  /-- `RD_DATA`, R174, at an offset 4 to 7 -/
  | rdData (off : BitVec 3)
  /-- `WR_COMMAND`, R176 -/
  | wrCommand (value : Byte)
  /-- `WR_PARAM`, R177 -/
  | wrParam (value : Byte)
  /-- `WR_RESET`, R178 -/
  | wrReset (value : Byte)
  /-- `WR_UNMAPPED`, R180 -/
  | wrUnmapped (value : Byte)
  /-- `WR_DATA`, R179, at an offset 4 to 7 -/
  | wrData (off : BitVec 3) (value : Byte)
deriving DecidableEq, Repr

/-- What the host presents at its interface as one instruction: the bytes of a whole command, sent as one write of
offset 0 and then writes of offset 1 (30_encoding.md R101), or one bus access, told apart by its direction and
offset (R98). An offset is a number, so that one the dispatcher would never pass on can be presented and refused
(40_environment.md R143). -/
inductive Frame where
  | command (bytes : List Byte)
  | read (off : Nat)
  | write (off : Nat) (value : Byte)
deriving DecidableEq, Repr

end Sys2Proof
end

