-- ==== Sys2Proof/WellFormed.lean ====
section
/-! DEFINITION. Which instructions an encoding exists for. Every byte is a legal parameter of a command (the values
a command refuses at dispatch, 43_command_protocol.md R215, are refused by its meaning); the offset of a bus access
must be one its row of 30_encoding.md R98 covers. -/

namespace Sys2Proof

/-- Offsets 2 and 3, the ones `RD_UNMAPPED` reads (30_encoding.md R98). -/
def unmappedOffset (off : BitVec 3) : Bool :=
  off == 2 || off == 3

/-- Offsets 4 to 7, the data register (30_encoding.md R98: any offset with bit 2 set). -/
def dataOffset (off : BitVec 3) : Bool :=
  off.getLsbD 2

/-- An instruction that some host access or command byte sequence stands for. -/
def Instr.wf : Instr → Bool
  | .rdUnmapped off => unmappedOffset off
  | .rdData off => dataOffset off
  | .wrData off _ => dataOffset off
  | .scan .. | .scanDel .. | .write128 .. | .writeVar .. | .writeDel128 .. | .writeDelVar .. => true
  | .read128 .. | .readVar .. | .readDel128 .. | .readDelVar .. | .readId .. => true
  | .verify128 .. | .verifyVar .. | .format .. | .seek .. => true
  | .readStatus .. | .specify .. | .writeSpecial .. | .readSpecial .. => true
  | .rdStatus | .rdResult | .wrCommand _ | .wrParam _ | .wrReset _ | .wrUnmapped _ => true

end Sys2Proof
end

