-- ==== Sys2Proof/Decode.lean ====
section
/-! DEFINITION. The command map and its parameter counts (30_encoding.md R81), the decoder of a frame, total and
rejecting by name, the encoder after it, and the reading of a word numbered as spec/opcode_table.json numbers it. -/

namespace Sys2Proof

/-! ## The command map -/

/-- The code of a command (30_encoding.md R81). -/
def Op.code : Op → BitVec 6
  | .scan => 0x00
  | .scanDel => 0x04
  | .write128 => 0x0A
  | .writeVar => 0x0B
  | .writeDel128 => 0x0E
  | .writeDelVar => 0x0F
  | .read128 => 0x12
  | .readVar => 0x13
  | .readDel128 => 0x16
  | .readDelVar => 0x17
  | .readId => 0x1B
  | .verify128 => 0x1E
  | .verifyVar => 0x1F
  | .format => 0x23
  | .seek => 0x29
  | .readStatus => 0x2C
  | .specify => 0x35
  | .writeSpecial => 0x3A
  | .readSpecial => 0x3D

/-- The command a code names; `none` for the undocumented codes (30_encoding.md R82). -/
def Op.ofCode (c : BitVec 6) : Option Op :=
  match c.toNat with
  | 0x00 => some .scan
  | 0x04 => some .scanDel
  | 0x0A => some .write128
  | 0x0B => some .writeVar
  | 0x0E => some .writeDel128
  | 0x0F => some .writeDelVar
  | 0x12 => some .read128
  | 0x13 => some .readVar
  | 0x16 => some .readDel128
  | 0x17 => some .readDelVar
  | 0x1B => some .readId
  | 0x1E => some .verify128
  | 0x1F => some .verifyVar
  | 0x23 => some .format
  | 0x29 => some .seek
  | 0x2C => some .readStatus
  | 0x35 => some .specify
  | 0x3A => some .writeSpecial
  | 0x3D => some .readSpecial
  | _ => none

/-- `nexp(code)`, the "params" column of 30_encoding.md R81 (R84). -/
def Op.params : Op → Nat
  | .scan | .scanDel => 5
  | .write128 | .writeDel128 | .read128 | .readDel128 | .verify128 => 2
  | .writeVar | .writeDelVar | .readVar | .readDelVar | .verifyVar => 3
  | .readId => 3
  | .format => 5
  | .seek => 1
  | .readStatus => 0
  | .specify => 4
  | .writeSpecial => 2
  | .readSpecial => 1

/-! ## Command classes -/

/-- The read family of 43_command_protocol.md R203: the read and verify commands. -/
def Op.inReadFamily : Op → Bool
  | .read128 | .readVar | .readDel128 | .readDelVar | .verify128 | .verifyVar => true
  | .scan | .scanDel | .write128 | .writeVar | .writeDel128 | .writeDelVar | .readId | .format | .seek => false
  | .readStatus | .specify | .writeSpecial | .readSpecial => false

/-- The write family of 43_command_protocol.md R203: the four write commands. -/
def Op.inWriteFamily : Op → Bool
  | .write128 | .writeVar | .writeDel128 | .writeDelVar => true
  | .scan | .scanDel | .read128 | .readVar | .readDel128 | .readDelVar | .readId => false
  | .verify128 | .verifyVar | .format | .seek | .readStatus | .specify | .writeSpecial | .readSpecial => false

/-- The transfer commands of 43_command_protocol.md R203. -/
def Op.isTransfer : Op → Bool
  | .read128 | .readVar | .readDel128 | .readDelVar | .readId | .format => true
  | .write128 | .writeVar | .writeDel128 | .writeDelVar => true
  | .scan | .scanDel | .verify128 | .verifyVar | .seek => false
  | .readStatus | .specify | .writeSpecial | .readSpecial => false

/-- The drive commands of 43_command_protocol.md R203: those that use the drive. The scan commands have no class
there, since they are refused when written. -/
def Op.isDrive : Op → Bool
  | .read128 | .readVar | .readDel128 | .readDelVar | .verify128 | .verifyVar | .readId => true
  | .write128 | .writeVar | .writeDel128 | .writeDelVar | .format | .seek => true
  | .scan | .scanDel | .readStatus | .specify | .writeSpecial | .readSpecial => false

/-- The commands that check write protection at dispatch (43_command_protocol.md R210, R213). -/
def Op.checksWriteProtect (op : Op) : Bool := op.inWriteFamily || op == .format

/-! ## The command byte -/

/-- `c[5:0]` of a command byte (30_encoding.md R80). -/
def codeOf (c : Byte) : BitVec 6 := c.extractLsb' 0 6

/-- `c[7:6]` of a command byte, the drive-select bits (30_encoding.md R80). -/
def selOf (c : Byte) : BitVec 2 := c.extractLsb' 6 2

/-- The command byte `sel | code` (30_encoding.md R101). -/
def commandByte (sel : BitVec 2) (op : Op) : Byte := sel ++ op.code

/-! ## The decoder -/

/-- Why a frame is no instruction. -/
inductive Reject where
  /-- a command frame with no byte in it -/
  | empty
  /-- a command byte with an undocumented code (30_encoding.md R82) -/
  | undocumented (byte : Byte)
  /-- fewer parameter bytes than the command takes (30_encoding.md R85) -/
  | missingParameters
  /-- more bytes than the command takes (30_encoding.md R85) -/
  | extraBytes
  /-- an offset outside 0 to 7 (40_environment.md R143) -/
  | offsetOutOfRange
deriving DecidableEq, Repr

/-- The instruction of a one-parameter command from the bytes after its command byte, and the bytes left over. -/
def take1 (mk : Byte → Instr) : List Byte → Except Reject (Instr × List Byte)
  | a :: r => .ok (mk a, r)
  | [] => .error .missingParameters

/-- As `take1`, for two parameters. -/
def take2 (mk : Byte → Byte → Instr) : List Byte → Except Reject (Instr × List Byte)
  | a :: b :: r => .ok (mk a b, r)
  | [] | [_] => .error .missingParameters

/-- As `take1`, for three parameters. -/
def take3 (mk : Byte → Byte → Byte → Instr) : List Byte → Except Reject (Instr × List Byte)
  | a :: b :: c :: r => .ok (mk a b c, r)
  | [] | [_] | [_, _] => .error .missingParameters

/-- As `take1`, for four parameters. -/
def take4 (mk : Byte → Byte → Byte → Byte → Instr) : List Byte → Except Reject (Instr × List Byte)
  | a :: b :: c :: d :: r => .ok (mk a b c d, r)
  | [] | [_] | [_, _] | [_, _, _] => .error .missingParameters

/-- As `take1`, for five parameters. -/
def take5 (mk : Byte → Byte → Byte → Byte → Byte → Instr) : List Byte → Except Reject (Instr × List Byte)
  | a :: b :: c :: d :: e :: r => .ok (mk a b c d e, r)
  | [] | [_] | [_, _] | [_, _, _] | [_, _, _, _] => .error .missingParameters

/-- The instruction of a documented command from its parameter bytes (30_encoding.md R86), and what follows it. -/
def decodeParams (op : Op) (sel : BitVec 2) (ps : List Byte) : Except Reject (Instr × List Byte) :=
  match op with
  | .scan => take5 (.scan sel) ps
  | .scanDel => take5 (.scanDel sel) ps
  | .write128 => take2 (.write128 sel) ps
  | .writeVar => take3 (.writeVar sel) ps
  | .writeDel128 => take2 (.writeDel128 sel) ps
  | .writeDelVar => take3 (.writeDelVar sel) ps
  | .read128 => take2 (.read128 sel) ps
  | .readVar => take3 (.readVar sel) ps
  | .readDel128 => take2 (.readDel128 sel) ps
  | .readDelVar => take3 (.readDelVar sel) ps
  | .readId => take3 (.readId sel) ps
  | .verify128 => take2 (.verify128 sel) ps
  | .verifyVar => take3 (.verifyVar sel) ps
  | .format => take5 (.format sel) ps
  | .seek => take1 (.seek sel) ps
  | .readStatus => .ok (.readStatus sel, ps)
  | .specify => take4 (.specify sel) ps
  | .writeSpecial => take2 (.writeSpecial sel) ps
  | .readSpecial => take1 (.readSpecial sel) ps

/-- The first command of a byte sequence and the bytes after it (30_encoding.md R85: `1 + nexp` bytes). -/
def decodeCommand : List Byte → Except Reject (Instr × List Byte)
  | [] => .error .empty
  | c :: ps =>
    match Op.ofCode (codeOf c) with
    | none => .error (.undocumented c)
    | some op => decodeParams op (selOf c) ps

/-- The instruction a frame presents (30_encoding.md R85, R98). -/
def decode : Frame → Except Reject Instr
  | .command bytes =>
    match decodeCommand bytes with
    | .error r => .error r
    | .ok (i, []) => .ok i
    | .ok (_, _ :: _) => .error .extraBytes
  | .read off =>
    match off with
    | 0 => .ok .rdStatus
    | 1 => .ok .rdResult
    | 2 => .ok (.rdUnmapped 2)
    | 3 => .ok (.rdUnmapped 3)
    | 4 => .ok (.rdData 4)
    | 5 => .ok (.rdData 5)
    | 6 => .ok (.rdData 6)
    | 7 => .ok (.rdData 7)
    | _ => .error .offsetOutOfRange
  | .write off v =>
    match off with
    | 0 => .ok (.wrCommand v)
    | 1 => .ok (.wrParam v)
    | 2 => .ok (.wrReset v)
    | 3 => .ok (.wrUnmapped v)
    | 4 => .ok (.wrData 4 v)
    | 5 => .ok (.wrData 5 v)
    | 6 => .ok (.wrData 6 v)
    | 7 => .ok (.wrData 7 v)
    | _ => .error .offsetOutOfRange

/-! ## The encoder -/

/-- The frame of a well-formed instruction (30_encoding.md R85, R86, R98, R101). -/
def encode : Instr → Frame
  | .scan sel a b c d e => .command [commandByte sel .scan, a, b, c, d, e]
  | .scanDel sel a b c d e => .command [commandByte sel .scanDel, a, b, c, d, e]
  | .write128 sel t s => .command [commandByte sel .write128, t, s]
  | .writeVar sel t s z => .command [commandByte sel .writeVar, t, s, z]
  | .writeDel128 sel t s => .command [commandByte sel .writeDel128, t, s]
  | .writeDelVar sel t s z => .command [commandByte sel .writeDelVar, t, s, z]
  | .read128 sel t s => .command [commandByte sel .read128, t, s]
  | .readVar sel t s z => .command [commandByte sel .readVar, t, s, z]
  | .readDel128 sel t s => .command [commandByte sel .readDel128, t, s]
  | .readDelVar sel t s z => .command [commandByte sel .readDelVar, t, s, z]
  | .readId sel t x n => .command [commandByte sel .readId, t, x, n]
  | .verify128 sel t s => .command [commandByte sel .verify128, t, s]
  | .verifyVar sel t s z => .command [commandByte sel .verifyVar, t, s, z]
  | .format sel t g3 z g5 g1 => .command [commandByte sel .format, t, g3, z, g5, g1]
  | .seek sel t => .command [commandByte sel .seek, t]
  | .readStatus sel => .command [commandByte sel .readStatus]
  | .specify sel g a b c => .command [commandByte sel .specify, g, a, b, c]
  | .writeSpecial sel a v => .command [commandByte sel .writeSpecial, a, v]
  | .readSpecial sel a => .command [commandByte sel .readSpecial, a]
  | .rdStatus => .read 0
  | .rdResult => .read 1
  | .rdUnmapped off => .read off.toNat
  | .rdData off => .read off.toNat
  | .wrCommand v => .write 0 v
  | .wrParam v => .write 1 v
  | .wrReset v => .write 2 v
  | .wrUnmapped v => .write 3 v
  | .wrData off v => .write off.toNat v

/-! ## Words numbered as the opcode table numbers them -/

/-- Byte `k` of a number, byte 0 its least significant. -/
def byteOf (w k : Nat) : Byte := BitVec.ofNat 8 (w / 256 ^ k)

/-- The frame whose bits the table numbers `w`: the first byte in bits 7:0, a parameter or a written value in the
bytes after it. DESIGN CHOICE (log entry 5), since the table gives a command byte, a read and a write one and the
same bits: a first byte of 0 to 7 is a bus offset, a write at offset 3 and a read at any other; of the rest, one
with a documented code is a command byte and any other a bus access at its bits 2:0. -/
def tableFrame (nbits w : Nat) : Frame :=
  let v := w % 2 ^ nbits
  let first := byteOf v 0
  let bus : Frame := if v % 8 = 3 then .write 3 (byteOf v 1) else .read (v % 8)
  if first.toNat < 8 then bus
  else match Op.ofCode (codeOf first) with
    | some op => .command (((List.range 6).map (byteOf v)).take (1 + op.params))
    | none => bus

/-- The instruction read from a word numbered as spec/opcode_table.json numbers it. -/
def decodeTableWord (nbits w : Nat) : Option Instr :=
  match decode (tableFrame nbits w) with
  | .ok i => some i
  | .error _ => none

end Sys2Proof
end

