-- ==== Sys2Proof/Config.lean ====
section
/-! DEFINITION. What the spec leaves to an implementation: the parameters of 00_scope.md R9, which a machine
carries as plain data and no step changes, and the draws of R14 and the values the spec does not state, constants without a
body of which nothing can be proved. -/

namespace Sys2Proof

/-- The parameters of 00_scope.md R9. `NUM_DRIVES` is 2 and is fixed by the type of a drive's number. Every
other row is a field, so that a statement about every state is one about every parameter value. -/
structure Params where
  /-- `DRIVE_PRESENT[0]` -/
  present0 : Bool
  /-- `DRIVE_PRESENT[1]` -/
  present1 : Bool
  /-- `DOUBLE_STEP[0]` -/
  doubleStep0 : Bool
  /-- `DOUBLE_STEP[1]` -/
  doubleStep1 : Bool
  /-- `PULSE_PERIOD_TICKS` -/
  pulsePeriod : Nat
  /-- `TRACK_WORDS` -/
  trackWords : Nat
  /-- `INDEX_PULSE_WORDS` -/
  indexPulseWords : Nat
  /-- `MAX_TRACK` -/
  maxTrack : Nat
  /-- `STEP_UNIT_TICKS` -/
  stepUnit : Nat
  /-- `SETTLE_UNIT_TICKS` -/
  settleUnit : Nat
  /-- `HEAD_LOAD_UNIT_TICKS` -/
  headLoadUnit : Nat
  /-- `COMPLETION_DELAY_TICKS` -/
  completionDelay : Nat
  /-- `ID_SEARCH_INDEX_LIMIT` -/
  idSearchLimit : Nat
  /-- `DATA_MARK_WINDOW_SLOTS` -/
  dataMarkWindow : Nat
  /-- `ID_CRC_ANY_HEADER` -/
  idCrcAnyHeader : Bool
  /-- `GAP2_SKIP_BYTES` -/
  gap2SkipBytes : Nat
  /-- `RECAL_STEP_LIMIT` -/
  recalStepLimit : Nat
deriving DecidableEq, Repr

/-- The bounds 00_scope.md R9 puts on the parameters. The one on track lengths is about the discs too:
`Disc.fits`. -/
def Params.wf (c : Params) : Bool :=
  decide (1 ≤ c.indexPulseWords) && decide (1 ≤ c.maxTrack) && decide (1 ≤ c.idSearchLimit)
    && decide (576 ≤ c.dataMarkWindow) && decide (c.gap2SkipBytes = 11) && decide (c.recalStepLimit = 255)

/-- The parameter values of 95_test_vectors.md section 1.1: drive 0 present and drive 1 absent, a 2 MHz tick.
DESIGN CHOICE (log entry 2): `State.reset` carries these; the spec calls them examples, not claims. Unsafe. -/
def Params.vectors : Params where
  present0 := true
  present1 := false
  doubleStep0 := false
  doubleStep1 := false
  pulsePeriod := 128
  trackWords := 3125
  indexPulseWords := 63
  maxTrack := 80
  stepUnit := 4000
  settleUnit := 4000
  headLoadUnit := 16000
  completionDelay := 0
  idSearchLimit := 3
  dataMarkWindow := 1280
  idCrcAnyHeader := false
  gap2SkipBytes := 11
  recalStepLimit := 255

/-- `draw()` of 00_scope.md R14 for a byte: the reads of offsets 2 and 3 (R175) and the stored draws of a reset
(R450). The argument is the number of draws taken before it. Free, log entry 3. Safe. -/
opaque Config.drawByte : Nat → Byte

/-- `draw()` for a pulse word: what a spinning drive with no disc delivers (40_environment.md R131), and what it
delivers where the disc records nothing (log entry 9). Free, log entry 3. Safe. -/
opaque Config.drawWord : Nat → Slots

/-- `weak_word()` of 40_environment.md R132: a draw from the nonzero pulse words, the word drawn being this
number plus one. Free, log entry 3. Safe. -/
opaque Config.drawWeak : Nat → Fin 4294967295

/-- The words of a revolution where the head stands past a disc's last track, on side 1 (true) or side 0 of the
physical track given: 40_environment.md R131 has no length for it. Free, log entry 9. Safe. -/
opaque Config.absentTrackWords : Bool → Nat → Nat

/-- The word index, from the one before and the new track's length, where the head leaves a track of no words:
40_environment.md R137 divides by the old length there and states no value. Free, log entry 27. Safe. -/
opaque Config.wordFromEmpty : Nat → Nat → Nat

/-- An unspecified count of 10_state.md R35 after a reset. Free, log entry 4. Safe. -/
opaque Config.drawNat : Nat → Nat

/-- An unspecified truth value of 10_state.md R34 and R35 after a reset. Free, log entry 4. Safe. -/
opaque Config.drawBool : Nat → Bool

/-- The unspecified running CRC of 10_state.md R35 after a reset. Free, log entry 4. Safe. -/
opaque Config.drawHalf : Nat → Half

/-- An unspecified byte list of 10_state.md R35 after a reset. Free, log entry 4. Safe. -/
opaque Config.drawBytes : Nat → List Byte

end Sys2Proof
end

