-- ==== Sys2Proof/Machine/Memory.lean ====
section
/-! DEFINITION. The contents of one disc track (20_memory.md R63, R72; 40_environment.md R125, R126): pulse words
held as bytes, the earliest slots of a word at the lowest address, in one canonical form. -/

namespace Sys2Proof.Machine

/-- The recorded slots of a track: byte `4 * p + k` holds the slots `31 - 8 * k` down to `24 - 8 * k` of word `p`,
so the half word at phase 16 begins at byte `4 * p + 2`. Addresses rise strictly and no byte listed is zero. -/
abbrev Memory := List Host.Cell

/-- What an unlisted address reads as: no flux transition, the "entirely unformatted (zero)" data of
40_environment.md R132. -/
def Memory.blank : Byte := 0

/-- The byte at an address. -/
def Memory.read : Memory → Nat → Byte
  | [], _ => Memory.blank
  | (k, b) :: m, a => if k = a then b else Memory.read m a

/-- Store one byte, keeping the canonical form. -/
def Memory.write : Memory → Nat → Byte → Memory
  | [], a, v => if v = Memory.blank then [] else [(a, v)]
  | (k, b) :: m, a, v =>
    if a < k then (if v = Memory.blank then (k, b) :: m else (a, v) :: (k, b) :: m)
    else if a = k then (if v = Memory.blank then m else (k, v) :: m)
    else (k, b) :: Memory.write m a v

/-- The canonical form, of a memory whose addresses are all at least `lo`. -/
def Memory.wfFrom (lo : Nat) : Memory → Bool
  | [] => true
  | (k, b) :: m => decide (lo ≤ k) && (b != Memory.blank) && Memory.wfFrom (k + 1) m

/-- The canonical form: addresses strictly rising, no entry equal to what an unlisted address reads as. -/
def Memory.wf (m : Memory) : Bool := Memory.wfFrom 0 m

/-- Every listed address lies below `limit`. -/
def Memory.below (limit : Nat) (m : Memory) : Bool := m.all fun c => decide (c.1 < limit)

/-- The 32 slots of word `p` (00_scope.md R13: bit 31 the earliest). -/
def Memory.readWord (m : Memory) (p : Nat) : Slots :=
  m.read (4 * p) ++ m.read (4 * p + 1) ++ m.read (4 * p + 2) ++ m.read (4 * p + 3)

/-- Store consecutive bytes from an address on; a byte at or past `limit`, the end of the track, is dropped. -/
def Memory.writeBytes (limit : Nat) : Memory → Nat → List Byte → Memory
  | m, _, [] => m
  | m, a, v :: vs =>
    Memory.writeBytes limit (if a < limit then m.write a v else m) (a + 1) vs

/-- The `n` low slots of a chunk (`n` 16 or 32) as bytes, the earliest first (00_scope.md R13). -/
def chunkBytes (w : Slots) (n : Nat) : List Byte :=
  (List.range (n / 8)).reverse.map fun k => w.extractLsb' (8 * k) 8

end Sys2Proof.Machine
end

