-- ==== Sys2Proof/Machine/State.lean ====
section
/-! DEFINITION. The machine's state as plain data: the controller (10_state.md R21 to R44), the two drives and the
discs (R55, R56), the scheduler (R57), the host's side of the interface (R58 and the host's pending actions),
the reasons a step can stop, and the state after reset (R50, 70_reset_and_hazards.md R453). -/

namespace Sys2Proof.Machine

/-! ## Drives and discs -/

/-- A drive's number, 0 or 1 (10_state.md R47). -/
inductive DriveId where
  | d0 | d1
deriving DecidableEq, Repr

/-- A side of a disc (40_environment.md R125). -/
inductive Side where
  | side0 | side1
deriving DecidableEq, Repr

/-- The slot phase of a head position, 0 or 16 (40_environment.md R128). -/
inductive Phase where
  | phase0 | phase16
deriving DecidableEq, Repr

/-- A track: `length` pulse words of a fixed capacity (40_environment.md R125) and its recorded slots. -/
structure Track where
  capacity : Nat
  length : Nat
  cells : Memory
deriving DecidableEq, Repr

/-- A disc (10_state.md R56): the tracks of its two sides, its write-protect flag and the one track that may be
waiting for a flush. -/
structure Disc where
  side0 : List Track
  side1 : List Track
  writeProtect : Bool
  dirty : Option (Side × Nat)
deriving DecidableEq, Repr

/-- An armed task: when it fires and its place in the order of scheduling (40_environment.md R120). -/
structure Armed where
  expiry : Nat
  seq : Nat
deriving DecidableEq, Repr

/-- The three tasks of the disc subsystem (40_environment.md R121): the controller's `T`, and each drive's rotation
timer. -/
inductive Task where
  | timer
  | rotation (n : DriveId)
deriving DecidableEq, Repr

/-- A drive (10_state.md R55, 40_environment.md R128). It refers to a disc, by the disc's number among the host's
(`State.discs`), and does not own it: both drives may refer to one disc. Its rotation timer is armed exactly while it
spins (R130), so `spinning` is read from the timer. Double stepping and presence are parameters. -/
structure Drive where
  disc : Option Nat
  phys : Nat
  side : Side
  word : Nat
  phase : Phase
  rotation : Option Armed
deriving DecidableEq, Repr

/-! ## The controller's parts -/

/-- The internal registers by their special-register addresses (10_state.md R24). -/
structure Regs where
  /-- 0x0D -/
  stepRate : Byte
  /-- 0x0E -/
  settle : Byte
  /-- 0x0F -/
  headLoadUnload : Byte
  /-- 0x10 -/
  bad1s0 : Byte
  /-- 0x11 -/
  bad2s0 : Byte
  /-- 0x12 -/
  trackS0 : Byte
  /-- 0x17 -/
  mode : Byte
  /-- 0x18 -/
  bad1s1 : Byte
  /-- 0x19 -/
  bad2s1 : Byte
  /-- 0x1A -/
  trackS1 : Byte
deriving DecidableEq, Repr

/-- The thirteen FSM states (10_state.md R30). -/
inductive Fsm where
  | idle | params | seekStep | seekSettle
  | searchId | inId | searchData | inData
  | writeSkipGap2 | writeData | formatWaitIndex | formatWrite
  | completing
deriving DecidableEq, Repr

/-- What the controller's timer does when it fires (10_state.md R41). -/
inductive Cont where
  | none | step | postSeek
  | latch (code : Byte)
deriving DecidableEq, Repr

/-- The operands of the running command (10_state.md R33). -/
structure Operands where
  reqTrack : Byte
  sector : Byte
  size : Nat
  count : Nat
  gap3 : Byte
  gap1 : Byte
deriving DecidableEq, Repr

/-- Seek working state (10_state.md R34). -/
structure SeekWork where
  target : Byte
  recal : Bool
  dirIn : Bool
  steps : Nat
  stepped : Bool
  newlyLoaded : Bool
deriving DecidableEq, Repr

/-- Field capture state (10_state.md R35). -/
structure Capture where
  crc : Half
  clkErr : Bool
  idb : List Byte
  nbytes : Nat
  crcb : List Byte
  deleted : Bool
deriving DecidableEq, Repr

/-- A write item, one FM byte to record (47_write_commands.md R341). -/
inductive WriteItem where
  | lit (clock data : Byte)
  | mark (data : Byte)
  | fill (data : Byte)
  | host
  | crcHi | crcLo
  | gap4
deriving DecidableEq, Repr

/-- Write machinery state (10_state.md R38). -/
structure WriteWork where
  wseq : List WriteItem
  fifo : List Bool
  hostLeft : Nat
  skipDone : Bool
  fmtDone : Bool
deriving DecidableEq, Repr

/-! ## The host's side -/

/-- What the host may do between scheduler events (40_environment.md R142, 00_scope.md R8). -/
inductive HostAction where
  /-- one instruction: a bus access, or the accesses of a whole command with no event between them -/
  | access (f : Frame)
  /-- advance the scheduler by a number of ticks (40_environment.md R124) -/
  | advance (ticks : Nat)
  /-- a disc is built, outside the controller (R125); it is the next by number -/
  | newDisc (disc : Disc)
  /-- load a disc, by its number, or remove one (R129) -/
  | setDisc (n : DriveId) (disc : Option Nat)
  /-- set the write-protect flag of a disc, by its number -/
  | setWriteProtect (disc : Nat) (on : Bool)
  /-- the host environment resets the system (00_scope.md R8) -/
  | systemReset
deriving DecidableEq, Repr

/-! ## The state -/

/-- The machine's state. Field by field, with widths, rules and reset values: INVENTORY.md, '## State'. -/
structure State where
  /-- the parameters of 00_scope.md R9; no step changes them -/
  cfg : Params
  /-- R21 -/
  busy : Bool
  /-- R22 -/
  resultFull : Bool
  /-- R23 -/
  irq : Bool
  /-- R44 -/
  drq : Bool
  /-- R24 -/
  regs : Regs
  /-- R25 -/
  cmd : Byte
  /-- R26 -/
  params : List Byte
  /-- R26 -/
  nexp : Nat
  /-- R27 -/
  result : Byte
  /-- R28 -/
  data : Byte
  /-- R29 -/
  driveOut : Byte
  /-- `state`, R30 -/
  fsm : Fsm
  /-- R31 -/
  sr : Slots
  /-- R32 -/
  nbits : Nat
  /-- R33 -/
  op : Operands
  /-- R34 -/
  seek : SeekWork
  /-- R35 -/
  cap : Capture
  /-- R36 -/
  deletedSeen : Bool
  /-- R37 -/
  indexCount : Nat
  /-- R38 -/
  wr : WriteWork
  /-- R39 -/
  unload : Option Nat
  /-- R40 -/
  lastIndex : Bool
  /-- the timer task `T`, R41 -/
  timer : Option Armed
  /-- R41 -/
  cont : Cont
  /-- the discs there are, by number, R56 -/
  discs : List Disc
  /-- R55 -/
  drive0 : Drive
  /-- R55 -/
  drive1 : Drive
  /-- R57 -/
  epoch : Nat
  /-- R57 -/
  nextSeq : Nat
  /-- the host-side interrupt line, R58 -/
  intLine : Bool
  /-- MODEL: the value the host's latest read access returned (log entry 6) -/
  readData : Byte
  /-- MODEL: the host's pending actions, first to come first (log entry 7) -/
  host : List HostAction
  /-- MODEL: how many draws have been taken (log entry 3) -/
  draws : Nat
deriving DecidableEq, Repr

/-! ## Stops -/

/-- The faults of 60_exceptions.md R430, which the spec calls fatal. -/
inductive Fault where
  /-- Raised by a command write, and by a whole command, while `busy` (43_command_protocol.md R200). Safe. -/
  | commandWhileBusy
  /-- Raised by a parameter write outside `PARAMS` (43_command_protocol.md R201). Safe. -/
  | unexpectedParameter
  /-- Raised by a drive command dispatched with no drive selected (43_command_protocol.md R216), and by a seek step
  whose drive is gone, which no run reaches (log entry 8). Safe. -/
  | noDriveSelected
  /-- Raised by a seek to track 0 that has used up its steps (44_seek.md R247). Safe. -/
  | recalibrateExhausted
  /-- Raised by scheduling the controller's timer while it is armed (40_environment.md R122), which no run reaches
  (60_exceptions.md R432). Safe. -/
  | doubleSchedule
  /-- Raised by marking a second track of a disc dirty (40_environment.md R126). Host accesses and events do not reach
  it (60_exceptions.md R432); a host that loads a disc whose writes were not flushed, or one disc into both drives, may
  (log entry 18). Safe. -/
  | secondDirtyTrack
deriving DecidableEq, Repr

/-- The refusals of 60_exceptions.md R431 and of 93_implementation_defined.md A.3. -/
inductive Refusal where
  /-- Raised by `exec` for an instruction that has no meaning yet. Safe. -/
  | notModelled (mnemonic : String)
  /-- Raised by the write of a command byte with an undocumented code (43_command_protocol.md R200). Safe. -/
  | undocumentedCommand
  /-- Raised by `SCAN` and `SCAN_DEL` and the write of their command bytes (48_management_commands.md R400). Safe. -/
  | scanUnmodelled
  /-- Raised by a transfer command dispatched in DMA mode (43_command_protocol.md R214). Safe. -/
  | dmaModeUnmodelled
  /-- Raised by a command dispatched with a sector or ID count of 0 (43_command_protocol.md R215). Safe. -/
  | zeroCount
  /-- Raised by `FORMAT` with a gap-5 parameter other than 0 (43_command_protocol.md R215). Safe. -/
  | formatGap5
  /-- Raised by `SPECIFY` of another register group (48_management_commands.md R381). Safe. -/
  | specifyTarget
  /-- Raised by a special-register command at another address (48_management_commands.md R383, R387). Safe. -/
  | specialRegister
  /-- Raised by a change of disc while a drive command runs (40_environment.md R142). Safe. -/
  | discChange
  /-- Raised by building a disc whose tracks are not what 40_environment.md R125 describes (log entry 10). Safe. -/
  | malformedDisc
  /-- Raised by building a disc with a track no longer than the index pulse, against the bound of 00_scope.md R9, a
  track of length 0 among them (93_implementation_defined.md A.3). Safe. -/
  | trackTooShort
  /-- Raised by naming a disc by a number that no disc has (log entry 18). Safe. -/
  | noSuchDisc
  /-- Raised by a host access at an offset outside 0 to 7 (40_environment.md R143). Safe. -/
  | offsetOutOfRange
  /-- Raised by a command frame with too few or too many bytes (30_encoding.md R85). Safe. -/
  | incompleteCommand
deriving DecidableEq, Repr

/-! ## Reset -/

/-- The ten internal registers after a reset that has taken `k` draws: one stored draw each
(70_reset_and_hazards.md R450). -/
def drawnRegs (k : Nat) : Regs where
  stepRate := Config.drawByte k
  settle := Config.drawByte (k + 1)
  headLoadUnload := Config.drawByte (k + 2)
  bad1s0 := Config.drawByte (k + 3)
  bad2s0 := Config.drawByte (k + 4)
  trackS0 := Config.drawByte (k + 5)
  mode := Config.drawByte (k + 6)
  bad1s1 := Config.drawByte (k + 7)
  bad2s1 := Config.drawByte (k + 8)
  trackS1 := Config.drawByte (k + 9)

/-- The operands of 10_state.md R33 after a reset: unspecified within their ranges (log entry 4). -/
def drawnOperands (k : Nat) : Operands where
  reqTrack := Config.drawByte k
  sector := Config.drawByte (k + 1)
  size := 128 <<< ((Config.drawByte (k + 2)).toNat % 8)
  count := (Config.drawByte (k + 3)).toNat
  gap3 := Config.drawByte (k + 4)
  gap1 := Config.drawByte (k + 5)

/-- The seek state of 10_state.md R34 after a reset: unspecified within its ranges (log entry 4). -/
def drawnSeek (k : Nat) : SeekWork where
  target := Config.drawByte k
  recal := Config.drawBool (k + 1)
  dirIn := Config.drawBool (k + 2)
  steps := (Config.drawByte (k + 3)).toNat
  stepped := Config.drawBool (k + 4)
  newlyLoaded := Config.drawBool (k + 5)

/-- The capture state of 10_state.md R35 after a reset: unspecified within its ranges, `nbytes` within that of the
sector size (log entry 4). -/
def drawnCapture (size k : Nat) : Capture where
  crc := Config.drawHalf k
  clkErr := Config.drawBool (k + 1)
  idb := (Config.drawBytes (k + 2)).take 6
  nbytes := Config.drawNat (k + 3) % (size + 3)
  crcb := (Config.drawBytes (k + 4)).take 2
  deleted := Config.drawBool (k + 5)

/-- The write machinery after a reset (10_state.md R38). -/
def emptyWrite : WriteWork where
  wseq := []
  fifo := []
  hostLeft := 0
  skipDone := false
  fmtDone := false

/-- How many draws one reset takes: `result`, `data`, `cmd`, ten registers, and the unspecified elements. -/
def resetDraws : Nat := 31

/-- A drive at power-on: stopped, side 0, position 0 (70_reset_and_hazards.md R453). DESIGN CHOICE (log entry 2):
no disc and physical track 0, which R453 leaves to the host. -/
def Drive.powerOn : Drive where
  disc := none
  phys := 0
  side := .side0
  word := 0
  phase := .phase0
  rotation := none

/-- The machine right after reset (10_state.md R50, 70_reset_and_hazards.md R450 and R453). -/
def State.reset : State where
  cfg := Params.vectors
  busy := false
  resultFull := false
  irq := false
  drq := false
  regs := drawnRegs 3
  cmd := Config.drawByte 2
  params := []
  nexp := 0
  result := Config.drawByte 0
  data := Config.drawByte 1
  driveOut := 0
  fsm := .idle
  sr := 0
  nbits := 0
  op := drawnOperands 13
  seek := drawnSeek 19
  cap := drawnCapture (drawnOperands 13).size 25
  deletedSeen := false
  indexCount := 0
  wr := emptyWrite
  unload := none
  lastIndex := false
  timer := none
  cont := .none
  discs := []
  drive0 := .powerOn
  drive1 := .powerOn
  epoch := 0
  nextSeq := 0
  intLine := false
  readData := 0
  host := []
  draws := resetDraws

end Sys2Proof.Machine
end

