-- ==== Sys2Proof/Machine/Drive.lean ====
section
/-! DEFINITION. The disc and the disc drive as far as the controller depends on them (40_environment.md R125 to
R139): tracks, writes and flushes, the disc a drive refers to, the head's position, its steps and side changes, and the
drive's signals. -/

namespace Sys2Proof.Machine

/-! ## Disc -/

/-- The tracks of a side. -/
def Disc.side (d : Disc) : Side → List Track
  | .side0 => d.side0
  | .side1 => d.side1

/-- Replace the tracks of a side. -/
def Disc.withSide (d : Disc) (sd : Side) (ts : List Track) : Disc :=
  match sd with
  | .side0 => { d with side0 := ts }
  | .side1 => { d with side1 := ts }

/-- `disc.track(side, phys)`; `none` past the disc's last track (log entry 9). -/
def Disc.track (d : Disc) (sd : Side) (phys : Nat) : Option Track := (d.side sd)[phys]?

/-- `disc.flushWrites()` (40_environment.md R127): the write-back has no effect on the controller. -/
def Disc.flush (d : Disc) : Disc := { d with dirty := none }

/-- Set the write-protect flag. -/
def Disc.protect (on : Bool) (d : Disc) : Disc := { d with writeProtect := on }

/-- Slots of a phase as a byte offset into its word. -/
def Phase.bytes : Phase → Nat
  | .phase0 => 0
  | .phase16 => 2

/-- Replace `n` slots of a track at a word and phase (40_environment.md R126). Slots past the track's end are
dropped. -/
def Track.writeSlots (t : Track) (word : Nat) (ph : Phase) (w : Slots) (n : Nat) : Track :=
  { t with cells := t.cells.writeBytes (4 * t.length) (4 * word + ph.bytes) (chunkBytes w n) }

/-- `disc.writePulses` (40_environment.md R126): `none` when another track is dirty, and nothing has changed. -/
def Disc.writePulses (d : Disc) (sd : Side) (phys word : Nat) (ph : Phase) (w : Slots) (n : Nat) : Option Disc :=
  if d.dirty = none ∨ d.dirty = some (sd, phys) then
    some { d.withSide sd ((d.side sd).modify phys fun t => t.writeSlots word ph w n) with dirty := some (sd, phys) }
  else none

/-- A track as 40_environment.md R125 describes it, its slots in canonical form and inside it. -/
def Track.wf (t : Track) : Bool :=
  decide (t.length ≤ t.capacity) && t.cells.wf && Memory.below (4 * t.length) t.cells

/-- A disc whose two sides have the same number of tracks, each well formed (40_environment.md R125). -/
def Disc.wf (d : Disc) : Bool :=
  decide (d.side0.length = d.side1.length) && d.side0.all Track.wf && d.side1.all Track.wf

/-- Every track is longer than the index pulse: the bound 00_scope.md R9 puts on `INDEX_PULSE_WORDS`. -/
def Disc.fits (d : Disc) (c : Params) : Bool :=
  d.side0.all (fun t => decide (c.indexPulseWords < t.length))
    && d.side1.all fun t => decide (c.indexPulseWords < t.length)

/-! ## Parameters and drives by number -/

/-- `DRIVE_PRESENT[n]` (00_scope.md R9). -/
def present (c : Params) : DriveId → Bool
  | .d0 => c.present0
  | .d1 => c.present1

/-- `DOUBLE_STEP[n]` (00_scope.md R9). -/
def doubleStep (c : Params) : DriveId → Bool
  | .d0 => c.doubleStep0
  | .d1 => c.doubleStep1

/-- Drive `n`. -/
def State.drive (s : State) : DriveId → Drive
  | .d0 => s.drive0
  | .d1 => s.drive1

/-- Replace drive `n`. -/
def State.setDrive (s : State) (n : DriveId) (d : Drive) : State :=
  match n with
  | .d0 => { s with drive0 := d }
  | .d1 => { s with drive1 := d }

/-- The drive with its rotation timer armed or disarmed. -/
def Drive.withRotation (d : Drive) (r : Option Armed) : Drive := { d with rotation := r }

/-- The drive with a reference to another disc, or to none. -/
def Drive.withDisc (d : Drive) (disc : Option Nat) : Drive := { d with disc := disc }

/-! ## The disc in a drive -/

/-- The disc drive `n` refers to (40_environment.md R128). -/
def State.disc (s : State) (n : DriveId) : Option Disc := (s.drive n).disc.bind fun k => s.discs[k]?

/-- Change the disc drive `n` refers to; whichever drive refers to it sees the change. -/
def onDisc (n : DriveId) (f : Disc → Disc) (s : State) : State :=
  match (s.drive n).disc with
  | none => s
  | some k => { s with discs := s.discs.modify k f }

/-- Flush the disc in drive `n`, if it holds one. -/
def flushDisc (n : DriveId) (s : State) : State := onDisc n Disc.flush s

/-! ## Drive signals -/

/-- `spinning` (40_environment.md R130): the rotation timer is armed. -/
def Drive.spinning (d : Drive) : Bool := d.rotation.isSome

/-- `track0()` (40_environment.md R135). -/
def Drive.track0 (d : Drive) : Bool := decide (d.phys = 0)

/-- `write_protect()` of drive `n` (40_environment.md R136). -/
def State.protectedDisc (s : State) (n : DriveId) : Bool := (s.disc n).any Disc.writeProtect

/-- `index()` of drive `n` (40_environment.md R133): always true with no disc. -/
def State.index (s : State) (n : DriveId) : Bool :=
  (s.disc n).isNone || decide ((s.drive n).word < s.cfg.indexPulseWords)

/-! ## Head movement -/

/-- The words of a revolution at a side and track: `TRACK_WORDS` with no disc (40_environment.md R131, R137); a free
number where the disc has no such track (log entry 9). -/
def trackLen (c : Params) (disc : Option Disc) (sd : Side) (phys : Nat) : Nat :=
  match disc with
  | none => c.trackWords
  | some d =>
    match d.track sd phys with
    | none => Config.absentTrackWords (sd == .side1) phys
    | some t => t.length

/-- The word index kept across a change of track length (40_environment.md R137); a free one after a track of no words,
for which the rule states none (log entry 27). -/
def rescale (word lenOld lenNew : Nat) : Nat :=
  if lenOld = lenNew then word
  else if lenOld = 0 then Config.wordFromEmpty word lenNew
  else word * lenNew / lenOld

/-- The drive with its head at another side and track, its angular position kept (40_environment.md R137). -/
def Drive.movedTo (d : Drive) (c : Params) (disc : Option Disc) (sd : Side) (phys : Nat) : Drive :=
  { d with
    side := sd
    phys := phys
    word := rescale d.word (trackLen c disc d.side d.phys) (trackLen c disc sd phys) }

/-- Bring the head of drive `n` to another side and track; its disc is flushed first (40_environment.md R137). -/
def moveHead (n : DriveId) (sd : Side) (phys : Nat) (s : State) : State :=
  (flushDisc n s).setDrive n ((s.drive n).movedTo s.cfg (s.disc n) sd phys)

/-- The side the side-select line names (30_encoding.md R94). -/
def sideOfLine (line : Bool) : Side := if line then .side1 else .side0

/-- `set_side` of drive `n` (40_environment.md R137): nothing happens while the side stays the same. -/
def setSide (n : DriveId) (sd : Side) (s : State) : State :=
  if (s.drive n).side = sd then s else moveHead n sd (s.drive n).phys s

/-- The physical track one step away (40_environment.md R134): doubled in 40-track mode, clamped to the drive. -/
def steppedTrack (c : Params) (double dirIn : Bool) (phys : Nat) : Nat :=
  let by_ := if double then 2 else 1
  min (if dirIn then phys + by_ else phys - by_) (c.maxTrack - 1)

/-- `seekTrack(±1)` of drive `n` (40_environment.md R134). -/
def seekTrack (n : DriveId) (dirIn : Bool) (s : State) : State :=
  moveHead n (s.drive n).side (steppedTrack s.cfg (doubleStep s.cfg n) dirIn (s.drive n).phys) s

/-- The head of drive `n` moves on by the word delivered, of a track of `len` words; a wrap flushes the disc
(40_environment.md R131). -/
def advanceHead (n : DriveId) (len : Nat) (s : State) : State :=
  if len ≤ (s.drive n).word + 1 then (flushDisc n s).setDrive n { s.drive n with word := 0 }
  else s.setDrive n { s.drive n with word := (s.drive n).word + 1 }

/-- `writePulses(w, k)` of drive `n` at the delivered position (40_environment.md R138): discarded with no disc or a
protected one; `none` when the disc has another track dirty. -/
def writePulses (n : DriveId) (w : Slots) (k : Nat) (s : State) : Option State :=
  match s.disc n with
  | none => some s
  | some disc =>
    if disc.writeProtect then some s
    else
      (disc.writePulses (s.drive n).side (s.drive n).phys (s.drive n).word (s.drive n).phase w k).map fun written =>
        onDisc n (fun _ => written) s

end Sys2Proof.Machine
end

