-- ==== Sys2Proof/Machine/Ops.lean ====
section
/-! DEFINITION. The named operations every meaning is built from: the registers, the drive output port and what its
lines do, the scheduler's operations, data requests and the interrupt line, a command's completion (what this
controller has in the place of taking an exception, 60_exceptions.md), and the controller's reset. -/

namespace Sys2Proof.Machine

/-- The outcome of an operation on the machine. -/
abbrev Result := Host.Outcome State Fault Refusal

/-- Go on from a next state; a stop stays. -/
def andThen (r : Result) (f : State → Result) : Result :=
  match r with
  | .next s => f s
  | .fault e => .fault e
  | .refused e => .refused e

/-! ## The command register -/

/-- The command in `cmd` (10_state.md R25). -/
def State.command (s : State) : Option Op := Op.ofCode (codeOf s.cmd)

/-- `p[i]` (10_state.md R26). -/
def State.param (s : State) (i : Nat) : Byte := s.params.getD i 0

/-- The command in `cmd` is in the read family. -/
def State.inReadFamily (s : State) : Bool := s.command.any Op.inReadFamily

/-- The command in `cmd` is in the write family. -/
def State.inWriteFamily (s : State) : Bool := s.command.any Op.inWriteFamily

/-- The command in `cmd` is a transfer command. -/
def State.isTransfer (s : State) : Bool := s.command.any Op.isTransfer

/-! ## The internal registers -/

/-- `reg[a]` (10_state.md R24): the ten addresses that hold a register. -/
def Regs.get (r : Regs) (a : Byte) : Option Byte :=
  match a.toNat with
  | 0x0D => some r.stepRate
  | 0x0E => some r.settle
  | 0x0F => some r.headLoadUnload
  | 0x10 => some r.bad1s0
  | 0x11 => some r.bad2s0
  | 0x12 => some r.trackS0
  | 0x17 => some r.mode
  | 0x18 => some r.bad1s1
  | 0x19 => some r.bad2s1
  | 0x1A => some r.trackS1
  | _ => none

/-- `reg[a] <- v` (10_state.md R24); no other address holds a register. -/
def Regs.set (r : Regs) (a v : Byte) : Regs :=
  match a.toNat with
  | 0x0D => { r with stepRate := v }
  | 0x0E => { r with settle := v }
  | 0x0F => { r with headLoadUnload := v }
  | 0x10 => { r with bad1s0 := v }
  | 0x11 => { r with bad2s0 := v }
  | 0x12 => { r with trackS0 := v }
  | 0x17 => { r with mode := v }
  | 0x18 => { r with bad1s1 := v }
  | 0x19 => { r with bad2s1 := v }
  | 0x1A => { r with trackS1 := v }
  | _ => r

/-- `bad1(n)` (10_state.md R48). -/
def Regs.bad1 (r : Regs) : DriveId → Byte
  | .d0 => r.bad1s0
  | .d1 => r.bad1s1

/-- `bad2(n)` (10_state.md R48). -/
def Regs.bad2 (r : Regs) : DriveId → Byte
  | .d0 => r.bad2s0
  | .d1 => r.bad2s1

/-- `track_reg(n)` (10_state.md R48). -/
def Regs.track (r : Regs) : DriveId → Byte
  | .d0 => r.trackS0
  | .d1 => r.trackS1

/-- `track_reg(n) <- v` (10_state.md R48). -/
def Regs.setTrack (r : Regs) (n : DriveId) (v : Byte) : Regs :=
  match n with
  | .d0 => { r with trackS0 := v }
  | .d1 => { r with trackS1 := v }

/-- The non-DMA bit of the mode register (30_encoding.md R96). -/
def Regs.nonDma (r : Regs) : Bool := r.mode.getLsbD 0

/-- `hl`, the head-load field (30_encoding.md R97). -/
def Regs.headLoad (r : Regs) : Nat := (r.headLoadUnload.extractLsb' 0 4).toNat

/-- `hu`, the head-unload count (30_encoding.md R97). -/
def Regs.headUnload (r : Regs) : Nat := (r.headLoadUnload.extractLsb' 4 4).toNat

/-! ## The drive output port -/

/-- The two select lines (30_encoding.md R94). -/
def selectLines : Byte := 0xC0
/-- The side-select line. -/
def sideLine : Byte := 0x20
/-- The load-head line. -/
def loadHeadLine : Byte := 0x08
/-- The direction line. -/
def directionLine : Byte := 0x04
/-- The step line, never stored as 1 (44_seek.md R246). -/
def stepLine : Byte := 0x02
/-- The write-gate line. -/
def writeGateLine : Byte := 0x01

/-- `cur` as a function of the port (10_state.md R47). -/
def selected (out : Byte) : Option DriveId :=
  match (selOf out).toNat with
  | 1 => some .d0
  | 2 => some .d1
  | _ => none

/-- The current drive (10_state.md R47). -/
def State.cur (s : State) : Option DriveId := selected s.driveOut

/-- The head is loaded: load-head is set (30_encoding.md R94). -/
def State.headLoaded (s : State) : Bool := s.driveOut.getLsbD 3

/-- The write gate is on (30_encoding.md R94). -/
def State.writeGate (s : State) : Bool := s.driveOut.getLsbD 0

/-! ## The scheduler -/

/-- A task armed now to fire after `d` ticks (40_environment.md R122). -/
def State.armed (s : State) (d : Nat) : Armed := { expiry := s.epoch + d, seq := s.nextSeq }

/-- When a task is armed to fire, if it is (40_environment.md R120). -/
def State.task (s : State) : Task → Option Armed
  | .timer => s.timer
  | .rotation n => (s.drive n).rotation

/-- Arm or disarm a task. -/
def State.setTask (s : State) (task : Task) (a : Option Armed) : State :=
  match task with
  | .timer => { s with timer := a }
  | .rotation n => s.setDrive n ((s.drive n).withRotation a)

/-- A sequence number has been given out (40_environment.md R120). -/
def State.countSeq (s : State) : State := { s with nextSeq := s.nextSeq + 1 }

/-- `task.cancel()` (40_environment.md R123): nothing happens to a task that is not armed. -/
def State.cancel (task : Task) (s : State) : State := s.setTask task none

/-- `task.reschedule(d)` (40_environment.md R123): `cancel()`, then `schedule(d)`, which cannot fail then. -/
def State.reschedule (task : Task) (d : Nat) (s : State) : State := (s.setTask task (some (s.armed d))).countSeq

/-- `task.schedule(d)` (40_environment.md R122): a fault for a task that is armed. -/
def State.schedule (task : Task) (d : Nat) (s : State) : Result :=
  match s.task task with
  | some _ => .fault .doubleSchedule
  | none => .next (s.reschedule task d)

/-- `T.cancel(); cont <- none` (40_environment.md R123). -/
def State.disarm (s : State) : State := { s.cancel .timer with cont := .none }

/-- `startSpinning()` (40_environment.md R130): idempotent; the first chunk comes one period later. -/
def startSpinning (n : DriveId) (s : State) : State :=
  if (s.drive n).spinning then s else s.reschedule (.rotation n) s.cfg.pulsePeriod

/-- `stopSpinning()` (40_environment.md R130). -/
def stopSpinning (n : DriveId) (s : State) : State := s.cancel (.rotation n)

/-! ## What the output lines do -/

/-- Drive `n` spins iff it is the current drive with its head loaded; an absent drive ignores every line
(43_command_protocol.md R207, R208, 40_environment.md R128). -/
def applySpin (n : DriveId) (s : State) : State :=
  if present s.cfg n then
    (if s.cur = some n ∧ s.headLoaded = true then startSpinning n s else stopSpinning n s)
  else s

/-- The side line reaches the current drive (43_command_protocol.md R207). -/
def applySide (s : State) : State :=
  match s.cur with
  | none => s
  | some n =>
    if present s.cfg n then setSide n (sideOfLine (s.driveOut.getLsbD 5)) s else s

/-- A change of drive and a cleared load-head line end the head-unload countdown (43_command_protocol.md R207). -/
def cancelUnload (oldCur : Option DriveId) (s : State) : State :=
  if s.cur ≠ oldCur ∨ s.headLoaded = false then { s with unload := none } else s

/-- `set_drive_out(v)` (43_command_protocol.md R207): every write of the port, applied to the drives at once. -/
def setDriveOut (v : Byte) (s : State) : State :=
  cancelUnload s.cur (applySide (applySpin .d1 (applySpin .d0 { s with driveOut := v &&& ~~~stepLine })))

/-- `set_drive_out(drive_out OR m)`. -/
def raiseLines (m : Byte) (s : State) : State := setDriveOut (s.driveOut ||| m) s

/-- `set_drive_out(drive_out AND NOT m)`. -/
def clearLines (m : Byte) (s : State) : State := setDriveOut (s.driveOut &&& ~~~m) s

/-- `ready(n)` (43_command_protocol.md R209). -/
def State.ready (s : State) (n : DriveId) : Bool :=
  present s.cfg n && (s.disc n).isSome && (s.drive n).spinning

/-! ## Data requests and the interrupt line -/

/-- `irq <- b` and `set_interrupt(b)` (10_state.md R23, 40_environment.md R141). -/
def setIrq (b : Bool) (s : State) : State := { s with irq := b, intLine := b }

/-- `request()` (47_write_commands.md R348). -/
def request (s : State) : State := setIrq true { s with drq := true }

/-! ## Completion (60_exceptions.md section 1) -/

/-- `start_unload()` (60_exceptions.md R414). -/
def startUnload (s : State) : State :=
  if s.regs.headUnload = 0xF then { s with unload := none }
  else if s.regs.headUnload = 0 then clearLines loadHeadLine s
  else { s with unload := some s.regs.headUnload }

/-- `latch(code)` (60_exceptions.md R413): the result and the completion interrupt. -/
def latch (code : Byte) (s : State) : State :=
  startUnload
    (setIrq true { s with fsm := .idle, drq := false, result := code, busy := false, resultFull := true })

/-- The deleted-data flag of a result (60_exceptions.md R420). -/
def deletedFlag : Byte := 0x20

/-- The code `complete` latches (60_exceptions.md R411): the deleted-data flag belongs to the read family. -/
def completionCode (code : Byte) (s : State) : Byte :=
  if s.inReadFamily && s.deletedSeen then code ||| deletedFlag else code

/-- The command has ended and its code waits for the completion delay (60_exceptions.md R411, R412). -/
def State.waitToLatch (code : Byte) (s : State) : State :=
  State.reschedule .timer s.cfg.completionDelay { s with fsm := .completing, cont := .latch code }

/-- `complete(code)` (60_exceptions.md R411): the end of a drive command. -/
def complete (code : Byte) (s : State) : State :=
  let t := (clearLines writeGateLine s).disarm
  let c := completionCode code t
  if 0 < t.cfg.completionDelay then t.waitToLatch c else latch c t

/-- `finish_mgmt(res)` (60_exceptions.md R416): the end of a management command. -/
def finishMgmt (res : Option Byte) (s : State) : State :=
  match res with
  | none => { s with busy := false, fsm := .idle }
  | some v => { s with result := v, resultFull := true, busy := false, fsm := .idle }

/-! ## Reset -/

/-- `reset()` (70_reset_and_hazards.md R450): a write of 1 to the reset register, or the host environment's reset.
What R451 lists stays as it is. -/
def resetController (s : State) : State :=
  let k := s.draws
  setIrq false
    (setDriveOut 0
      { s with
        timer := none, cont := .none, fsm := .idle
        busy := false, resultFull := false, drq := false
        result := Config.drawByte k, data := Config.drawByte (k + 1), cmd := Config.drawByte (k + 2)
        regs := drawnRegs (k + 3)
        params := [], nexp := 0, sr := 0, nbits := 0, indexCount := 0, deletedSeen := false
        wr := emptyWrite, lastIndex := false
        op := drawnOperands (k + 13), seek := drawnSeek (k + 19)
        cap := drawnCapture (drawnOperands (k + 13)).size (k + 25)
        draws := k + resetDraws })

end Sys2Proof.Machine
end

