-- ==== Sys2Proof/Machine/Flags.lean ====
section
/-! DEFINITION. The two bytes that are computed when read: the status byte (10_state.md R45) and the drive input
port (10_state.md R46). -/

namespace Sys2Proof.Machine

/-- Bit `i` of a byte set to `b`, the others clear. -/
def flagBit (b : Bool) (i : Nat) : Byte := if b then 1#8 <<< i else 0

/-- The status byte (10_state.md R45, 30_encoding.md R92). -/
def State.status (s : State) : Byte :=
  flagBit s.busy 7 ||| flagBit s.resultFull 4 ||| flagBit s.irq 3 ||| flagBit s.drq 2

/-- A signal of the current drive as the input port shows it: 0 with no drive selected or an absent one
(10_state.md R46). -/
def State.curSignal (s : State) (f : DriveId → Bool) : Bool :=
  match s.cur with
  | none => false
  | some n => present s.cfg n && f n

/-- `drive_in` (10_state.md R46, 30_encoding.md R95). -/
def State.driveIn (s : State) : Byte :=
  flagBit (s.ready .d1) 6 ||| flagBit (s.curSignal s.index) 4
    ||| flagBit (s.curSignal s.protectedDisc) 3 ||| flagBit (s.ready .d0) 2
    ||| flagBit (s.curSignal fun n => (s.drive n).track0) 1

end Sys2Proof.Machine
end

