-- ==== Sys2Proof/Machine/Codec.lean ====
section
/-! DEFINITION. The FM codec and the CRC-16 (41_codec.md R150 to R158). -/

namespace Sys2Proof.Machine

/-! ## CRC-16 -/

/-- One of the eight shifts of `crc_byte` (41_codec.md R150). -/
def crcShift (crc : Half) : Half :=
  if crc.getLsbD 15 then (crc <<< 1) ^^^ 0x1021 else crc <<< 1

/-- `crcShift` applied `n` times. -/
def crcShifts : Nat → Half → Half
  | 0, crc => crc
  | n + 1, crc => crcShifts n (crcShift crc)

/-- `crc_byte(crc, b)` (41_codec.md R150). -/
def crcByte (crc : Half) (b : Byte) : Half :=
  crcShifts 8 (crc ^^^ (b.zeroExtend 16 <<< 8))

/-- `crc_bytes` (41_codec.md R150). -/
def crcBytes (crc : Half) (bs : List Byte) : Half := bs.foldl crcByte crc

/-- `crcInit(FM)` (41_codec.md R151). -/
def crcInit : Half := 0xFFFF

/-- The two CRC bytes as read, high byte first (41_codec.md R153). -/
def crcPair (hi lo : Byte) : Half := hi ++ lo

/-! ## FM pulse words -/

/-- Bit `i` of a byte in bit 0 of nibble `i`. -/
def spread (b : Byte) : Slots :=
  BitVec.ofBool (b.getLsbD 7) ++ 0#3 ++ BitVec.ofBool (b.getLsbD 6) ++ 0#3 ++
  BitVec.ofBool (b.getLsbD 5) ++ 0#3 ++ BitVec.ofBool (b.getLsbD 4) ++ 0#3 ++
  BitVec.ofBool (b.getLsbD 3) ++ 0#3 ++ BitVec.ofBool (b.getLsbD 2) ++ 0#3 ++
  BitVec.ofBool (b.getLsbD 1) ++ 0#3 ++ BitVec.ofBool (b.getLsbD 0)
    |>.setWidth 32

/-- Bit 0 of nibble `i` in bit `i` of a byte. -/
def gather (w : Slots) : Byte :=
  BitVec.ofBool (w.getLsbD 28) ++ BitVec.ofBool (w.getLsbD 24) ++ BitVec.ofBool (w.getLsbD 20) ++
  BitVec.ofBool (w.getLsbD 16) ++ BitVec.ofBool (w.getLsbD 12) ++ BitVec.ofBool (w.getLsbD 8) ++
  BitVec.ofBool (w.getLsbD 4) ++ BitVec.ofBool (w.getLsbD 0)

/-- `fm_encode(c, d)` (41_codec.md R154): the clock in position 2 and the data in position 0 of each nibble. -/
def fmEncode (clock data : Byte) : Slots := (spread clock <<< 2) ||| spread data

/-- The clock byte `fm_decode` reads (41_codec.md R155). -/
def fmClock (w : Slots) : Byte := gather (w >>> 2)

/-- The data byte `fm_decode` reads (41_codec.md R155). -/
def fmData (w : Slots) : Byte := gather w

/-- The flag `fm_decode` gives for a pulse off the cell grid (41_codec.md R155), which the controller ignores
(R156). -/
def fmIffy (w : Slots) : Bool := (w &&& 0xAAAAAAAA) != 0

/-- `fm_decode(w)` (41_codec.md R155). -/
def fmDecode (w : Slots) : Byte × Byte × Bool := (fmClock w, fmData w, fmIffy w)

/-! ## Marks and fill bytes (41_codec.md R157, R158) -/

/-- The clock pattern of an ID, data or deleted-data mark. -/
def markClock : Byte := 0xC7
/-- The clock pattern of every other byte (R158). -/
def dataClock : Byte := 0xFF
/-- The data byte of the ID mark. -/
def idMark : Byte := 0xFE
/-- The data byte of the data mark. -/
def dataMark : Byte := 0xFB
/-- The data byte of the deleted-data mark. -/
def deletedMark : Byte := 0xF8
/-- The pulse word of the ID mark. -/
def idMarkWord : Slots := 0x55111554
/-- The pulse word of the data mark. -/
def dataMarkWord : Slots := 0x55111455
/-- The pulse word of the deleted-data mark. -/
def deletedMarkWord : Slots := 0x55111444

/-! ## Slots in time -/

/-- The `n` slots of a chunk in time order, bit `n - 1` first (00_scope.md R13). -/
def slotsOf (w : Slots) (n : Nat) : List Bool :=
  (List.range n).reverse.map fun i => w.getLsbD i

/-- A slot shifted in at bit 0 (10_state.md R31). -/
def shiftIn (w : Slots) (b : Bool) : Slots := (w <<< 1) ||| (BitVec.ofBool b).setWidth 32

/-- Slots packed into a word, the last as bit 0 (47_write_commands.md R346). -/
def packSlots (bs : List Bool) : Slots := bs.foldl shiftIn 0

end Sys2Proof.Machine
end

