-- ==== Sys2Proof/Machine/Operands.lean ====
section
/-! DEFINITION. The operand forms of the drive commands: how the parameters become the command's operands
(43_command_protocol.md R211), which of their values are refused (R215), and the bad-track adjustment of the
requested track (44_seek.md R242). -/

namespace Sys2Proof.Machine

/-- The sector size of a size-count byte (30_encoding.md R87). -/
def sizeOf (z : Byte) : Nat := 128 <<< (z.extractLsb' 5 3).toNat

/-- The sector count of a size-count byte (30_encoding.md R87). -/
def countOf (z : Byte) : Nat := (z.extractLsb' 0 5).toNat

/-- `set_operands()` (43_command_protocol.md R211, 30_encoding.md R86): the operands a command's parameters set;
the others stay. -/
def operandsOf (op : Op) (p : Nat → Byte) (o : Operands) : Operands :=
  match op with
  | .read128 | .readDel128 | .verify128 | .write128 | .writeDel128 =>
    { o with reqTrack := p 0, sector := p 1, size := 128, count := 1 }
  | .readVar | .readDelVar | .verifyVar | .writeVar | .writeDelVar =>
    { o with reqTrack := p 0, sector := p 1, size := sizeOf (p 2), count := countOf (p 2) }
  | .readId => { o with reqTrack := p 0, count := (p 2).toNat }
  | .format =>
    { o with reqTrack := p 0, gap3 := p 1, size := sizeOf (p 2), count := countOf (p 2), gap1 := p 4 }
  | .seek => { o with reqTrack := p 0 }
  | .scan | .scanDel | .readStatus | .specify | .writeSpecial | .readSpecial => o

/-- `set_operands()` on the machine. -/
def setOperands (op : Op) (s : State) : State := { s with op := operandsOf op s.param s.op }

/-- `check_operands()` (43_command_protocol.md R215): why the operands are refused, if they are. -/
def checkOperands (op : Op) (s : State) : Option Refusal :=
  match op with
  | .read128 | .readVar | .readDel128 | .readDelVar | .verify128 | .verifyVar =>
    if s.op.count = 0 then some .zeroCount else none
  | .write128 | .writeVar | .writeDel128 | .writeDelVar =>
    if s.op.count = 0 then some .zeroCount else none
  | .readId => if s.op.count = 0 then some .zeroCount else none
  | .format => if s.op.count = 0 then some .zeroCount else if s.param 3 ≠ 0 then some .formatGap5 else none
  | .seek | .scan | .scanDel | .readStatus | .specify | .writeSpecial | .readSpecial => none

/-- One bad-track entry: an entry at or below the track moves it on by one, modulo 256 (44_seek.md R242). -/
def skipBad (bad t : Byte) : Byte := if bad ≤ t then t + 1 else t

/-- `adjust(t)` (44_seek.md R242): bad track 1 first, bad track 2 against the adjusted value. -/
def adjust (r : Regs) (n : DriveId) (t : Byte) : Byte := skipBad (r.bad2 n) (skipBad (r.bad1 n) t)

end Sys2Proof.Machine
end

