-- ==== Sys2Proof/Machine/Bitstream.lean ====
section
/-! DEFINITION. The receive path (45_bitstream.md): the searches, the capture of ID and data fields slot by slot,
the bytes handed to the host, and the ends of a field (46_read_commands.md R304, R306). -/

namespace Sys2Proof.Machine

/-- `begin_search()` (45_bitstream.md R274). -/
def beginSearch (s : State) : State := { s with fsm := .searchId, sr := 0, indexCount := 0 }

/-- `research()` (45_bitstream.md R282): as `beginSearch`, but the index count goes on and may end the command. -/
def research (s : State) : State :=
  let t : State := { s with fsm := .searchId, sr := 0 }
  if s.cfg.idSearchLimit ≤ s.indexCount then complete 0x18 t else t

/-- `next_sector()` (46_read_commands.md R306). -/
def nextSector (s : State) : State :=
  let t : State := { s with op := { s.op with count := s.op.count - 1 } }
  if t.op.count = 0 then complete 0x00 t
  else beginSearch { t with op := { t.op with sector := t.op.sector + 1 } }

/-- `offer(d)` (45_bitstream.md R285) when no request is pending: the byte and the request for it. -/
def offer (d : Byte) (s : State) : State := request { s with data := d }

/-! ## ID search and capture -/

/-- `search_id_slot()` (45_bitstream.md R275). -/
def searchIdSlot (s : State) : State :=
  if s.sr = idMarkWord then
    { s with
      fsm := .inId, nbits := 0
      cap := { s.cap with crc := crcByte crcInit idMark, clkErr := false, idb := [] } }
  else s

/-- The CRC of an ID field as read against the one computed (45_bitstream.md R278). -/
def idGood (c : Capture) : Bool := c.crc == crcPair (c.idb.getD 4 0) (c.idb.getD 5 0)

/-- A header's track and sector are the ones sought (45_bitstream.md R278): the requested track, not the adjusted
one, and neither the head nor the size byte. -/
def idMatches (s : State) : Bool :=
  s.cap.idb.getD 0 0 == s.op.reqTrack && s.cap.idb.getD 2 0 == s.op.sector

/-- `end_id()` for `READ_ID` (45_bitstream.md R278). -/
def endReadId (s : State) : State :=
  if s.drq then complete 0x0A s
  else if s.cap.clkErr then complete 0x08 s
  else if !idGood s.cap then complete 0x0C s
  else
    let t : State := { s with op := { s.op with count := s.op.count - 1 } }
    if t.op.count = 0 then complete 0x00 t else beginSearch t

/-- `end_id()` for the commands that look for a sector (45_bitstream.md R278). -/
def endSoughtId (s : State) : State :=
  if s.cap.clkErr then research s
  else if !idGood s.cap && (idMatches s || s.cfg.idCrcAnyHeader) then complete 0x0C s
  else if !idMatches s then research s
  else if s.inWriteFamily then
    { s with fsm := .writeSkipGap2, nbits := 0, wr := { s.wr with skipDone := false } }
  else { s with fsm := .searchData, nbits := 0, sr := 0 }

/-- `end_id()` (45_bitstream.md R278). -/
def endId (s : State) : State := if s.command = some .readId then endReadId s else endSoughtId s

/-- A byte of a field has been shifted in: its clock pattern is checked (45_bitstream.md R277). -/
def noteClock (s : State) : State :=
  { s with nbits := 0, cap := { s.cap with clkErr := s.cap.clkErr || fmClock s.sr != dataClock } }

/-- A byte of an ID field (45_bitstream.md R276). -/
def idByte (d : Byte) (s : State) : State :=
  let t : State := { s with cap := { s.cap with idb := s.cap.idb ++ [d] } }
  if t.cap.idb.length ≤ 4 then
    let u : State := { t with cap := { t.cap with crc := crcByte t.cap.crc d } }
    if u.command = some .readId then (if u.drq then complete 0x0A u else offer d u) else u
  else if t.cap.idb.length = 6 then endId t
  else t

/-- `in_id_slot()` (45_bitstream.md R276). -/
def inIdSlot (s : State) : State :=
  if s.nbits + 1 < 32 then { s with nbits := s.nbits + 1 } else idByte (fmData s.sr) (noteClock s)

/-! ## Data search and capture -/

/-- A data or deleted-data mark has been found (45_bitstream.md R279). -/
def startData (deleted : Bool) (s : State) : State :=
  { s with
    fsm := .inData, nbits := 0
    cap := { s.cap with
      deleted := deleted, nbytes := 0, clkErr := false, crcb := []
      crc := crcByte crcInit (if deleted then deletedMark else dataMark) } }

/-- `search_data_slot()` (45_bitstream.md R279). -/
def searchDataSlot (s : State) : State :=
  let t : State := { s with nbits := s.nbits + 1 }
  if t.sr = dataMarkWord then startData false t
  else if t.sr = deletedMarkWord then startData true t
  else if t.cfg.dataMarkWindow ≤ t.nbits then research t
  else t

/-- The CRC of a data field as read against the one computed (46_read_commands.md R304). -/
def dataGood (c : Capture) : Bool := c.crc == crcPair (c.crcb.getD 0 0) (c.crcb.getD 1 0)

/-- The commands that end after a deleted sector (46_read_commands.md R305). -/
def stopsAtDeleted (s : State) : Bool := s.command == some .read128 || s.command == some .readVar

/-- `end_data()` (46_read_commands.md R304). -/
def endData (s : State) : State :=
  let t : State := { s with deletedSeen := s.deletedSeen || s.cap.deleted }
  if t.isTransfer && t.drq then complete 0x0A t
  else if t.cap.clkErr then complete 0x08 t
  else if !dataGood t.cap then complete 0x0E t
  else if t.cap.deleted && stopsAtDeleted t then complete 0x00 t
  else nextSector t

/-- A byte of the sector, before its CRC (45_bitstream.md R280). -/
def sectorByte (d : Byte) (s : State) : State :=
  let t : State := { s with cap := { s.cap with crc := crcByte s.cap.crc d } }
  if t.isTransfer then (if t.drq then complete 0x0A t else offer d t) else t

/-- A byte of a data field (45_bitstream.md R280). -/
def dataByte (d : Byte) (s : State) : State :=
  let t : State := { s with cap := { s.cap with nbytes := s.cap.nbytes + 1 } }
  if t.cap.nbytes ≤ t.op.size then sectorByte d t
  else
    let u : State := { t with cap := { t.cap with crcb := t.cap.crcb ++ [d] } }
    if u.cap.nbytes = u.op.size + 2 then endData u else u

/-- `in_data_slot()` (45_bitstream.md R280). -/
def inDataSlot (s : State) : State :=
  if s.nbits + 1 < 32 then { s with nbits := s.nbits + 1 } else dataByte (fmData s.sr) (noteClock s)

/-! ## Slots -/

/-- `skip_slot()` (47_write_commands.md R343). -/
def skipSlot (s : State) : State :=
  let t : State := { s with nbits := s.nbits + 1 }
  if t.nbits = t.cfg.gap2SkipBytes * 32 then { t with wr := { t.wr with skipDone := true } } else t

/-- `on_slot(b)` (45_bitstream.md R273). -/
def onSlot (s : State) (b : Bool) : State :=
  let t : State := { s with sr := shiftIn s.sr b }
  match t.fsm with
  | .searchId => searchIdSlot t
  | .inId => inIdSlot t
  | .searchData => searchDataSlot t
  | .inData => inDataSlot t
  | .writeSkipGap2 => skipSlot t
  | .idle | .params | .seekStep | .seekSettle | .formatWaitIndex | .completing => t
  | .writeData | .formatWrite => t

/-- The slots of a read chunk in time order (45_bitstream.md R271). -/
def onSlots (w : Slots) (n : Nat) (s : State) : State := (slotsOf w n).foldl onSlot s

end Sys2Proof.Machine
end

