-- ==== Sys2Proof/Machine/Seek.lean ====
section
/-! DEFINITION. The seek every drive command begins with (44_seek.md R241 to R251): stepping, the track register,
and the head-load or settle delay. -/

namespace Sys2Proof.Machine

/-- `post_seek()` (44_seek.md R251). -/
def postSeek (s : State) : State :=
  if s.command = some .seek then complete 0x00 s
  else if s.command = some .format then { s with fsm := .formatWaitIndex }
  else beginSearch s

/-- `seek_delay()` (44_seek.md R250): head load replaces settle; settle only after a step. -/
def seekDelay (s : State) : Nat :=
  if s.seek.newlyLoaded then s.regs.headLoad * s.cfg.headLoadUnit
  else if s.seek.stepped then s.regs.settle.toNat * s.cfg.settleUnit
  else 0

/-- `finish_seek()` (44_seek.md R249). -/
def finishSeek (n : DriveId) (s : State) : Result :=
  let t : State := { s with regs := s.regs.setTrack n (if s.seek.recal then 0 else s.seek.target) }
  if 0 < seekDelay t then
    State.schedule .timer (seekDelay t) { t with fsm := .seekSettle, cont := .postSeek }
  else .next (postSeek t)

/-- A step pulse and the delay after it (44_seek.md R246, R247). -/
def issueStep (n : DriveId) (s : State) : Result :=
  let t := seekTrack n s.seek.dirIn s
  State.schedule .timer (t.regs.stepRate.toNat * t.cfg.stepUnit)
    { t with seek := { t.seek with steps := t.seek.steps - 1, stepped := true }, cont := .step }

/-- `seek_step()` (44_seek.md R247). -/
def seekStep (n : DriveId) (s : State) : Result :=
  if s.seek.recal then
    if (s.drive n).track0 then finishSeek n s
    else if s.seek.steps = 0 then .fault .recalibrateExhausted
    else issueStep n s
  else if s.seek.steps = 0 then finishSeek n s
  else issueStep n s

/-- The seek working state `start_seek` sets up (44_seek.md R241). -/
def planSeek (n : DriveId) (s : State) : SeekWork :=
  let target := adjust s.regs n s.op.reqTrack
  let here := s.regs.track n
  if target = 0 then
    { s.seek with target := target, stepped := false, recal := true, dirIn := false, steps := s.cfg.recalStepLimit }
  else
    { s.seek with
      target := target, stepped := false, recal := false, dirIn := decide (here < target)
      steps := if here < target then target.toNat - here.toNat else here.toNat - target.toNat }

/-- `start_seek()` (44_seek.md R241). -/
def startSeek (n : DriveId) (s : State) : Result :=
  let t : State := { s with seek := planSeek n s }
  let u := if t.seek.dirIn then raiseLines directionLine t else clearLines directionLine t
  seekStep n { u with fsm := .seekStep }

end Sys2Proof.Machine
end

