-- ==== Sys2Proof/Machine/Protocol.lean ====
section
/-! DEFINITION. Accepting a command byte, drive selection at dispatch, and the checks every drive command begins
with (43_command_protocol.md R200, R206, R210 to R216). -/

namespace Sys2Proof.Machine

/-- `select_from_command()` (43_command_protocol.md R206). -/
def selectFromCommand (s : State) : State :=
  if selOf s.cmd = selOf s.driveOut then s
  else setDriveOut ((s.driveOut &&& sideLine) ||| (s.cmd &&& selectLines)) s

/-- `load_head()` (43_command_protocol.md R212). -/
def loadHead (s : State) : State :=
  raiseLines loadHeadLine
    { s with unload := none, seek := { s.seek with newlyLoaded := !s.headLoaded } }

/-- `start_drive_command()` of R210 from its head load on, on drive `n`. -/
def startOnDrive (op : Op) (n : DriveId) (s : State) : Result :=
  let t := loadHead { s with deletedSeen := false }
  if !t.ready n then .next (complete 0x10 t)
  else if op.checksWriteProtect && t.protectedDisc n then .next (complete 0x12 t)
  else startSeek n t

/-- `start_drive_command()` (43_command_protocol.md R210): no drive, DMA mode, operands, head load, not ready,
write protection, seek, in this order. -/
def startDriveCommand (op : Op) (s : State) : Result :=
  match s.cur with
  | none => .fault .noDriveSelected
  | some n =>
    if op.isTransfer && !s.regs.nonDma then .refused .dmaModeUnmodelled
    else
      match checkOperands op (setOperands op s) with
      | some r => .refused r
      | none => startOnDrive op n (setOperands op s)

/-- What a command byte sets when it is accepted (43_command_protocol.md R200). -/
def commandAccepted (v : Byte) (op : Op) (s : State) : State :=
  { s with
    cmd := v, busy := true, params := [], nexp := op.params
    fsm := if op.params = 0 then s.fsm else .params }

/-- All of a command's parameters at once. -/
def State.withParams (ps : List Byte) (s : State) : State := { s with params := ps }

/-- A whole command: its byte is accepted, its parameters arrive, and the last of them dispatches it, which applies
the select bits and runs `run` (43_command_protocol.md R200, R201, R204). -/
def issue (op : Op) (sel : BitVec 2) (ps : List Byte) (run : State → Result) (s : State) : Result :=
  if s.busy then .fault .commandWhileBusy
  else run (selectFromCommand ((commandAccepted (commandByte sel op) op s).withParams ps))

end Sys2Proof.Machine
end

