-- ==== Sys2Proof/Machine/Management.lean ====
section
/-! DEFINITION. The management commands and the scan commands (48_management_commands.md R380 to R400). A
management command runs to its end in its dispatch. -/

namespace Sys2Proof.Machine

/-! ## `READ_STATUS` -/

/-- `read_drive_status()` (48_management_commands.md R380). -/
def runReadStatus (s : State) : Result := .next (finishMgmt (some s.driveIn) s)

/-- `READ_STATUS` (48_management_commands.md R380). -/
def execReadStatus (sel : BitVec 2) (s : State) : Result := issue .readStatus sel [] runReadStatus s

/-! ## `SPECIFY` -/

/-- The register groups `SPECIFY` loads (30_encoding.md R90). -/
def specifyGroup (a : Byte) : Bool := a == 0x0D || a == 0x10 || a == 0x18

/-- `specify()` (48_management_commands.md R381). -/
def runSpecify (s : State) : Result :=
  let a := s.param 0
  if specifyGroup a then
    .next (finishMgmt none
      { s with regs := ((s.regs.set a (s.param 1)).set (a + 1) (s.param 2)).set (a + 2) (s.param 3) })
  else .refused .specifyTarget

/-- `SPECIFY` (48_management_commands.md R381). -/
def execSpecify (sel : BitVec 2) (group v1 v2 v3 : Byte) (s : State) : Result :=
  issue .specify sel [group, v1, v2, v3] runSpecify s

/-! ## Special registers -/

/-- The drive output port's special-register address (20_memory.md R62). -/
def outputPort : Byte := 0x23

/-- The drive input port's special-register address (20_memory.md R62). -/
def inputPort : Byte := 0x22

/-- The internal registers `WRITE_SPECIAL` and `READ_SPECIAL` reach (48_management_commands.md R383, R387). -/
def specialRegister (a : Byte) : Bool :=
  a == 0x10 || a == 0x11 || a == 0x12 || a == 0x17 || a == 0x18 || a == 0x19 || a == 0x1A

/-- `write_special()` (48_management_commands.md R383). -/
def runWriteSpecial (s : State) : Result :=
  let a := s.param 0
  if a = outputPort then .next (finishMgmt none (setDriveOut (s.param 1) s))
  else if specialRegister a then .next (finishMgmt none { s with regs := s.regs.set a (s.param 1) })
  else .refused .specialRegister

/-- `WRITE_SPECIAL` (48_management_commands.md R383). -/
def execWriteSpecial (sel : BitVec 2) (addr value : Byte) (s : State) : Result :=
  issue .writeSpecial sel [addr, value] runWriteSpecial s

/-- The value of a special register `READ_SPECIAL` accepts (48_management_commands.md R387). -/
def specialValue (s : State) (a : Byte) : Option Byte :=
  if a = inputPort then some s.driveIn
  else if a = outputPort then some s.driveOut
  else if specialRegister a then s.regs.get a
  else none

/-- `read_special()` (48_management_commands.md R387). -/
def runReadSpecial (s : State) : Result :=
  match specialValue s (s.param 0) with
  | some v => .next (finishMgmt (some v) s)
  | none => .refused .specialRegister

/-- `READ_SPECIAL` (48_management_commands.md R387). -/
def execReadSpecial (sel : BitVec 2) (addr : Byte) (s : State) : Result :=
  issue .readSpecial sel [addr] runReadSpecial s

/-! ## The scan commands -/

/-- A scan command byte is refused when it is written (43_command_protocol.md R200, 48_management_commands.md
R400); its parameters are never reached. -/
def refuseScan (s : State) : Result := if s.busy then .fault .commandWhileBusy else .refused .scanUnmodelled

/-- `SCAN` (48_management_commands.md R400). -/
def execScan (_sel : BitVec 2) (_p0 _p1 _p2 _p3 _p4 : Byte) (s : State) : Result := refuseScan s

/-- `SCAN_DEL` (48_management_commands.md R400). -/
def execScanDel (_sel : BitVec 2) (_p0 _p1 _p2 _p3 _p4 : Byte) (s : State) : Result := refuseScan s

end Sys2Proof.Machine
end

