-- ==== Sys2Proof/Machine/ReadCommands.lean ====
section
/-! DEFINITION. The read, verify and read-ID commands (46_read_commands.md R310 to R316): their
dispatches and their meanings as instructions. The seek, the searches, the capture and the completion that follow
are events (Events.lean, Bitstream.lean), which read the command register. -/

namespace Sys2Proof.Machine

/-- The dispatch of `READ_128` (46_read_commands.md R310). -/
def runRead128 (s : State) : Result := startDriveCommand .read128 s

/-- `READ_128` (46_read_commands.md R310): one 128-byte sector. -/
def execRead128 (sel : BitVec 2) (track sector : Byte) (s : State) : Result :=
  issue .read128 sel [track, sector] runRead128 s

/-- The dispatch of `READ_VAR` (46_read_commands.md R311). -/
def runReadVar (s : State) : Result := startDriveCommand .readVar s

/-- `READ_VAR` (46_read_commands.md R311): sectors of the size and count its third parameter names. -/
def execReadVar (sel : BitVec 2) (track sector sizeCount : Byte) (s : State) : Result :=
  issue .readVar sel [track, sector, sizeCount] runReadVar s

/-- The dispatch of `READ_DEL_128` (46_read_commands.md R312). -/
def runReadDel128 (s : State) : Result := startDriveCommand .readDel128 s

/-- `READ_DEL_128` (46_read_commands.md R312): one 128-byte sector, data or deleted data. -/
def execReadDel128 (sel : BitVec 2) (track sector : Byte) (s : State) : Result :=
  issue .readDel128 sel [track, sector] runReadDel128 s

/-- The dispatch of `READ_DEL_VAR` (46_read_commands.md R313). -/
def runReadDelVar (s : State) : Result := startDriveCommand .readDelVar s

/-- `READ_DEL_VAR` (46_read_commands.md R313): sectors, data or deleted data. -/
def execReadDelVar (sel : BitVec 2) (track sector sizeCount : Byte) (s : State) : Result :=
  issue .readDelVar sel [track, sector, sizeCount] runReadDelVar s

/-- The dispatch of `VERIFY_128` (46_read_commands.md R314). -/
def runVerify128 (s : State) : Result := startDriveCommand .verify128 s

/-- `VERIFY_128` (46_read_commands.md R314): one 128-byte sector, checked and not handed over. -/
def execVerify128 (sel : BitVec 2) (track sector : Byte) (s : State) : Result :=
  issue .verify128 sel [track, sector] runVerify128 s

/-- The dispatch of `VERIFY_VAR` (46_read_commands.md R315). -/
def runVerifyVar (s : State) : Result := startDriveCommand .verifyVar s

/-- `VERIFY_VAR` (46_read_commands.md R315): sectors, checked and not handed over. -/
def execVerifyVar (sel : BitVec 2) (track sector sizeCount : Byte) (s : State) : Result :=
  issue .verifyVar sel [track, sector, sizeCount] runVerifyVar s

/-- The dispatch of `READ_ID` (46_read_commands.md R316). -/
def runReadId (s : State) : Result := startDriveCommand .readId s

/-- `READ_ID` (46_read_commands.md R316): the next ID fields of a track. -/
def execReadId (sel : BitVec 2) (track ignored count : Byte) (s : State) : Result :=
  issue .readId sel [track, ignored, count] runReadId s

end Sys2Proof.Machine
end

