-- ==== Sys2Proof/Machine/SeekCommand.lean ====
section
/-! DEFINITION. `SEEK` (44_seek.md R255): its dispatch and its meaning as an instruction. The steps, the delays and
the completion that follow are the timer's events (Events.lean). -/

namespace Sys2Proof.Machine

/-- The dispatch of `SEEK` (44_seek.md R255). -/
def runSeek (s : State) : Result := startDriveCommand .seek s

/-- `SEEK` (44_seek.md R255). -/
def execSeek (sel : BitVec 2) (track : Byte) (s : State) : Result := issue .seek sel [track] runSeek s

end Sys2Proof.Machine
end

