-- ==== Sys2Proof/Machine/WriteCommands.lean ====
section
/-! DEFINITION. The write commands and the format command (47_write_commands.md R350 to R353, R365):
their dispatches and their meanings as instructions. The seek, the ID search, the transmit path and the completion
that follow are events (Events.lean, Transmit.lean), which read the command register. -/

namespace Sys2Proof.Machine

/-- The dispatch of `WRITE_128` (47_write_commands.md R350). -/
def runWrite128 (s : State) : Result := startDriveCommand .write128 s

/-- `WRITE_128` (47_write_commands.md R350): one 128-byte sector. -/
def execWrite128 (sel : BitVec 2) (track sector : Byte) (s : State) : Result :=
  issue .write128 sel [track, sector] runWrite128 s

/-- The dispatch of `WRITE_VAR` (47_write_commands.md R351). -/
def runWriteVar (s : State) : Result := startDriveCommand .writeVar s

/-- `WRITE_VAR` (47_write_commands.md R351): sectors of the size and count its third parameter names. -/
def execWriteVar (sel : BitVec 2) (track sector sizeCount : Byte) (s : State) : Result :=
  issue .writeVar sel [track, sector, sizeCount] runWriteVar s

/-- The dispatch of `WRITE_DEL_128` (47_write_commands.md R352). -/
def runWriteDel128 (s : State) : Result := startDriveCommand .writeDel128 s

/-- `WRITE_DEL_128` (47_write_commands.md R352): one 128-byte sector with a deleted-data mark. -/
def execWriteDel128 (sel : BitVec 2) (track sector : Byte) (s : State) : Result :=
  issue .writeDel128 sel [track, sector] runWriteDel128 s

/-- The dispatch of `WRITE_DEL_VAR` (47_write_commands.md R353). -/
def runWriteDelVar (s : State) : Result := startDriveCommand .writeDelVar s

/-- `WRITE_DEL_VAR` (47_write_commands.md R353): sectors with deleted-data marks. -/
def execWriteDelVar (sel : BitVec 2) (track sector sizeCount : Byte) (s : State) : Result :=
  issue .writeDelVar sel [track, sector, sizeCount] runWriteDelVar s

/-- The dispatch of `FORMAT` (47_write_commands.md R365). -/
def runFormat (s : State) : Result := startDriveCommand .format s

/-- `FORMAT` (47_write_commands.md R365): a whole track. -/
def execFormat (sel : BitVec 2) (track gap3 sizeCount gap5 gap1 : Byte) (s : State) : Result :=
  issue .format sel [track, gap3, sizeCount, gap5, gap1] runFormat s

end Sys2Proof.Machine
end

