-- ==== Sys2Proof/Machine/HostAccess.lean ====
section
/-! DEFINITION. The nine host bus accesses (42_host_registers.md R171 to R180), with command and parameter
acceptance and dispatch (43_command_protocol.md R200, R201, R204). -/

namespace Sys2Proof.Machine

/-! ## Reads -/

/-- A read access gives the host a value. -/
def answer (v : Byte) (s : State) : State := { s with readData := v }

/-- `RD_STATUS` (42_host_registers.md R171). -/
def execRdStatus (s : State) : Result := .next (answer s.status s)

/-- `RD_RESULT` (42_host_registers.md R173). -/
def execRdResult (s : State) : Result := .next (answer s.result (setIrq false { s with resultFull := false }))

/-- `RD_DATA` (42_host_registers.md R174). -/
def execRdData (_off : BitVec 3) (s : State) : Result := .next (answer s.data (setIrq false { s with drq := false }))

/-- `RD_UNMAPPED` (42_host_registers.md R175): a fresh draw. -/
def execRdUnmapped (_off : BitVec 3) (s : State) : Result :=
  .next (answer (Config.drawByte s.draws) { s with draws := s.draws + 1 })

/-! ## Writes -/

/-- `dispatch()` (43_command_protocol.md R204). The last three cases are never dispatched: R200 refuses their
command bytes. -/
def dispatch (s : State) : Result :=
  let t := selectFromCommand s
  match t.command with
  | some .readStatus => runReadStatus t
  | some .specify => runSpecify t
  | some .writeSpecial => runWriteSpecial t
  | some .readSpecial => runReadSpecial t
  | some .seek => runSeek t
  | some .read128 => runRead128 t
  | some .readVar => runReadVar t
  | some .readDel128 => runReadDel128 t
  | some .readDelVar => runReadDelVar t
  | some .verify128 => runVerify128 t
  | some .verifyVar => runVerifyVar t
  | some .readId => runReadId t
  | some .write128 => runWrite128 t
  | some .writeVar => runWriteVar t
  | some .writeDel128 => runWriteDel128 t
  | some .writeDelVar => runWriteDelVar t
  | some .format => runFormat t
  | some .scan => .refused .scanUnmodelled
  | some .scanDel => .refused .scanUnmodelled
  | none => .refused .undocumentedCommand

/-- `accept_command(v)` (43_command_protocol.md R200). -/
def acceptCommand (v : Byte) (s : State) : Result :=
  if s.busy then .fault .commandWhileBusy
  else
    match Op.ofCode (codeOf v) with
    | none => .refused .undocumentedCommand
    | some op =>
      if op = .scan ∨ op = .scanDel then .refused .scanUnmodelled
      else if op.params = 0 then dispatch (commandAccepted v op s)
      else .next (commandAccepted v op s)

/-- `accept_parameter(v)` (43_command_protocol.md R201). -/
def acceptParameter (v : Byte) (s : State) : Result :=
  if s.fsm = .params then
    let t : State := { s with params := s.params ++ [v] }
    if t.params.length = t.nexp then dispatch t else .next t
  else .fault .unexpectedParameter

/-- `WR_COMMAND` (42_host_registers.md R176). -/
def execWrCommand (v : Byte) (s : State) : Result := acceptCommand v s

/-- `WR_PARAM` (42_host_registers.md R177). -/
def execWrParam (v : Byte) (s : State) : Result := acceptParameter v s

/-- `WR_RESET` (42_host_registers.md R178): bit 0 resets, the other bits are ignored. -/
def execWrReset (v : Byte) (s : State) : Result :=
  if v.getLsbD 0 then .next (resetController s) else .next s

/-- `WR_UNMAPPED` (42_host_registers.md R180). -/
def execWrUnmapped (_v : Byte) (s : State) : Result := .next s

/-- `WR_DATA` (42_host_registers.md R179). -/
def execWrData (_off : BitVec 3) (v : Byte) (s : State) : Result :=
  .next (setIrq false { s with data := v, drq := false })

/-! ## Frames that are no instruction -/

/-- What the controller makes of a frame the decoder rejects: an undocumented command byte is written all the same
(43_command_protocol.md R200 says what follows), and the others never reach it. -/
def refuseFrame (r : Reject) (s : State) : Result :=
  match r with
  | .undocumented v => acceptCommand v s
  | .offsetOutOfRange => .refused .offsetOutOfRange
  | .empty | .missingParameters | .extraBytes => .refused .incompleteCommand

end Sys2Proof.Machine
end

