-- ==== Sys2Proof/Machine/Dispatch.lean ====
section
/-! DEFINITION. One arm per instruction: each is one direct call of its meaning. -/

namespace Sys2Proof.Machine

/-- The meaning of an instruction. -/
def exec (i : Instr) (s : State) : Host.Outcome State Fault Refusal :=
  match i with
  | .scan sel p0 p1 p2 p3 p4 => Sys2Proof.Machine.execScan sel p0 p1 p2 p3 p4 s
  | .scanDel sel p0 p1 p2 p3 p4 => Sys2Proof.Machine.execScanDel sel p0 p1 p2 p3 p4 s
  | .write128 sel track sector => Sys2Proof.Machine.execWrite128 sel track sector s
  | .writeVar sel track sector sizeCount => Sys2Proof.Machine.execWriteVar sel track sector sizeCount s
  | .writeDel128 sel track sector => Sys2Proof.Machine.execWriteDel128 sel track sector s
  | .writeDelVar sel track sector sizeCount => Sys2Proof.Machine.execWriteDelVar sel track sector sizeCount s
  | .read128 sel track sector => Sys2Proof.Machine.execRead128 sel track sector s
  | .readVar sel track sector sizeCount => Sys2Proof.Machine.execReadVar sel track sector sizeCount s
  | .readDel128 sel track sector => Sys2Proof.Machine.execReadDel128 sel track sector s
  | .readDelVar sel track sector sizeCount => Sys2Proof.Machine.execReadDelVar sel track sector sizeCount s
  | .readId sel track ignored count => Sys2Proof.Machine.execReadId sel track ignored count s
  | .verify128 sel track sector => Sys2Proof.Machine.execVerify128 sel track sector s
  | .verifyVar sel track sector sizeCount => Sys2Proof.Machine.execVerifyVar sel track sector sizeCount s
  | .format sel track gap3 sizeCount gap5 gap1 => Sys2Proof.Machine.execFormat sel track gap3 sizeCount gap5 gap1 s
  | .seek sel track => Sys2Proof.Machine.execSeek sel track s
  | .readStatus sel => Sys2Proof.Machine.execReadStatus sel s
  | .specify sel group v1 v2 v3 => Sys2Proof.Machine.execSpecify sel group v1 v2 v3 s
  | .writeSpecial sel addr value => Sys2Proof.Machine.execWriteSpecial sel addr value s
  | .readSpecial sel addr => Sys2Proof.Machine.execReadSpecial sel addr s
  | .rdStatus => Sys2Proof.Machine.execRdStatus s
  | .rdResult => Sys2Proof.Machine.execRdResult s
  | .rdUnmapped off => Sys2Proof.Machine.execRdUnmapped off s
  | .rdData off => Sys2Proof.Machine.execRdData off s
  | .wrCommand value => Sys2Proof.Machine.execWrCommand value s
  | .wrParam value => Sys2Proof.Machine.execWrParam value s
  | .wrReset value => Sys2Proof.Machine.execWrReset value s
  | .wrUnmapped value => Sys2Proof.Machine.execWrUnmapped value s
  | .wrData off value => Sys2Proof.Machine.execWrData off value s

end Sys2Proof.Machine
end

