-- ==== Sys2Proof/Machine/Transmit.lean ====
section
/-! DEFINITION. The transmit path (47_write_commands.md R340 to R363): the write items of a data field and of a
track, the encoder queue, the host's bytes, and the ends of a field and of a format. -/

namespace Sys2Proof.Machine

/-- `n` sync bytes or gap bytes. -/
def literals (n : Nat) (d : Byte) : List WriteItem := List.replicate n (.lit dataClock d)

/-- The mark a write command records (47_write_commands.md R344). -/
def writeMark (op : Option Op) : Byte :=
  if op = some .writeDel128 ∨ op = some .writeDelVar then deletedMark else dataMark

/-- The items of a data field (47_write_commands.md R344). -/
def dataSequence (m : Byte) (size : Nat) : List WriteItem :=
  literals 6 0x00 ++ [.mark m] ++ List.replicate size .host ++ [.crcHi, .crcLo, .lit dataClock 0xFF]

/-- `start_write()` (47_write_commands.md R344). -/
def startWrite (s : State) : State :=
  request (raiseLines writeGateLine
    { s with
      fsm := .writeData
      wr := { s.wr with
        wseq := dataSequence (writeMark s.command) s.op.size, fifo := [], hostLeft := s.op.size, fmtDone := false } })

/-- The items of one sector of a format (47_write_commands.md R362). -/
def formatSector (size gap3 : Nat) : List WriteItem :=
  [.mark idMark] ++ List.replicate 4 .host ++ [.crcHi, .crcLo]
    ++ literals 11 0xFF ++ literals 6 0x00
    ++ [.mark dataMark] ++ List.replicate size (.fill 0xE5) ++ [.crcHi, .crcLo]
    ++ literals gap3 0xFF ++ literals 6 0x00

/-- `format_sequence()` (47_write_commands.md R362). -/
def formatSequence (o : Operands) : List WriteItem :=
  literals o.gap1.toNat 0xFF ++ literals 6 0x00
    ++ (List.replicate o.count (formatSector o.size o.gap3.toNat)).flatten ++ [.gap4]

/-- `start_format()` (47_write_commands.md R361). -/
def startFormat (s : State) : State :=
  request (raiseLines writeGateLine
    { s with
      fsm := .formatWrite
      wr := { s.wr with
        wseq := formatSequence s.op, fifo := [], hostLeft := 4 * s.op.count, fmtDone := false } })

/-- The slots of a byte, bit 31 first (47_write_commands.md R342). -/
def itemSlots (clock data : Byte) : List Bool := slotsOf (fmEncode clock data) 32

/-- An encoded byte joins the queue. -/
def enqueue (clock data : Byte) (s : State) : State :=
  { s with wr := { s.wr with fifo := s.wr.fifo ++ itemSlots clock data } }

/-- A byte of a field: into the CRC and the queue. -/
def enqueueField (seed : Half) (clock data : Byte) (s : State) : State :=
  enqueue clock data { s with cap := { s.cap with crc := crcByte seed data } }

/-- A host byte is taken from the data register, and the next one asked for (47_write_commands.md R346, R347). -/
def takeHostByte (s : State) : State :=
  let t := enqueueField s.cap.crc dataClock s.data { s with wr := { s.wr with hostLeft := s.wr.hostLeft - 1 } }
  if 0 < t.wr.hostLeft then request t else t

/-- One item of the sequence encoded (47_write_commands.md R341, R346), with whether the host was late for it:
then nothing is encoded. -/
def encodeItem (it : WriteItem) (s : State) : State × Bool :=
  match it with
  | .lit c d => (enqueue c d s, false)
  | .mark d => (enqueueField crcInit markClock d s, false)
  | .fill d => (enqueueField s.cap.crc dataClock d s, false)
  | .host => if s.drq then (s, true) else (takeHostByte s, false)
  | .crcHi => (enqueue dataClock (s.cap.crc.extractLsb' 8 8) s, false)
  | .crcLo => (enqueue dataClock (s.cap.crc.extractLsb' 0 8) s, false)
  | .gap4 => (enqueue dataClock 0xFF { s with wr := { s.wr with fmtDone := true } }, false)

/-- The next item of the sequence leaves it, but for `gap4`, which repeats, and is encoded (R346). DEDUCED: the
loop of R346 turns at most once, since an item gives 32 slots and a chunk takes at most 32. -/
def encodeNext (n : Nat) (s : State) : State × Bool :=
  if s.wr.fifo.length < n then
    match s.wr.wseq with
    | [] => (s, false)
    | it :: rest =>
      encodeItem it (if it = .gap4 then s else { s with wr := { s.wr with wseq := rest } })
  else (s, false)

/-- The next `n` slots of the queue as a chunk. -/
def chunkOf (n : Nat) (fifo : List Bool) : Slots := packSlots ((fifo ++ List.replicate n false).take n)

/-- The end of a written data field (47_write_commands.md R345). -/
def endWrite (s : State) : State :=
  if s.fsm = .writeData ∧ s.wr.wseq = [] ∧ s.wr.fifo = [] then nextSector (clearLines writeGateLine s) else s

/-- The queue without its first `n` slots. -/
def State.dropSlots (n : Nat) (s : State) : State := { s with wr := { s.wr with fifo := s.wr.fifo.drop n } }

/-- The next `n` slots of the queue go to drive `d` at the delivered position (47_write_commands.md R346). -/
def handOver (d : DriveId) (n : Nat) (s : State) : Result :=
  match writePulses d (chunkOf n s.wr.fifo) n s with
  | none => .fault .secondDirtyTrack
  | some t => .next (endWrite (t.dropSlots n))

/-- `emit(n)` on drive `d` (47_write_commands.md R346). -/
def emit (d : DriveId) (n : Nat) (s : State) : Result :=
  let r := encodeNext n s
  if r.2 then .next (complete 0x0A r.1) else handOver d n r.1

end Sys2Proof.Machine
end

