-- ==== Sys2Proof/Machine/Events.lean ====
section
/-! DEFINITION. The scheduler events (40_environment.md R124, R131, 00_scope.md R8): a drive's chunk as the
controller takes it (45_bitstream.md R271, R272), and the firing of the controller's timer (10_state.md R41);
the host's discs (40_environment.md R142). -/

namespace Sys2Proof.Machine

/-! ## The pulse callback -/

/-- One index edge of the head-unload countdown (45_bitstream.md R272, 60_exceptions.md R415). -/
def countUnload (s : State) : State :=
  match s.unload with
  | none => s
  | some k =>
    if k - 1 = 0 then clearLines loadHeadLine { s with unload := none } else { s with unload := some (k - 1) }

/-- An index edge during a search (45_bitstream.md R272). -/
def countIndex (s : State) : State := { s with indexCount := s.indexCount + 1 }

/-- `on_index_edge()` (45_bitstream.md R272). -/
def onIndexEdge (s : State) : State :=
  match s.fsm with
  | .idle | .params => countUnload s
  | .searchId =>
    if s.cfg.idSearchLimit ≤ (countIndex s).indexCount then complete 0x18 (countIndex s) else countIndex s
  | .inId | .searchData => countIndex s
  | .formatWaitIndex => startFormat s
  | .formatWrite => if s.wr.fmtDone then complete 0x00 s else s
  | .seekStep | .seekSettle | .inData | .writeSkipGap2 | .writeData | .completing => s

/-- The index signal sampled at the start of a chunk of drive `n`, and its rising edge (45_bitstream.md R271). With no
disc no edge ever occurs (R272, 70_reset_and_hazards.md R467), even where the last sample was false (log entry 28). -/
def sampleIndex (n : DriveId) (s : State) : State :=
  let t : State := { s with lastIndex := s.index n }
  if (s.disc n).isSome && s.index n && !s.lastIndex then onIndexEdge t else t

/-- A chunk read in a state that does not write (45_bitstream.md R271). -/
def readChunk (w : Slots) (n : Nat) (s : State) : State :=
  let t := onSlots w n s
  if t.fsm = .writeSkipGap2 ∧ t.wr.skipDone = true then startWrite t else t

/-- `on_pulses(src, w, n)` (45_bitstream.md R271). -/
def onPulses (src : DriveId) (w : Slots) (n : Nat) (s : State) : Result :=
  if s.cur = some src then
    let t := sampleIndex src s
    if t.fsm = .writeData ∨ t.fsm = .formatWrite then emit src n t else .next (readChunk w n t)
  else .next s

/-! ## The drive's rotation -/

/-- A draw for a pulse word (00_scope.md R14). -/
def drawWord (s : State) : Slots × State := (Config.drawWord s.draws, { s with draws := s.draws + 1 })

/-- `weak_word()` (40_environment.md R132): a nonzero draw. -/
def weakWord (s : State) : Slots × State :=
  (BitVec.ofNat 32 ((Config.drawWeak s.draws).val + 1), { s with draws := s.draws + 1 })

/-- The word at the head of drive `n` (40_environment.md R131): a draw with no disc, and where the disc records
nothing (log entry 9); a weak word where the track is unformatted. -/
def deliveredWord (n : DriveId) (s : State) : Slots × State :=
  match s.disc n with
  | none => drawWord s
  | some disc =>
    match disc.track (s.drive n).side (s.drive n).phys with
    | none => drawWord s
    | some t =>
      if (s.drive n).word < t.length then
        let w := t.cells.readWord (s.drive n).word
        if w = 0 then weakWord s else (w, s)
      else drawWord s

/-- The rotation timer of drive `n` armed for the next chunk (40_environment.md R131). -/
def rearmRotation (n : DriveId) (s : State) : State :=
  s.reschedule (.rotation n) s.cfg.pulsePeriod

/-- `on_rotation_timer()` of drive `n` (40_environment.md R131); a track of no words delivers nothing. -/
def onRotation (n : DriveId) (s : State) : Result :=
  let len := trackLen s.cfg (s.disc n) (s.drive n).side (s.drive n).phys
  if len = 0 then .next (rearmRotation n s)
  else
    let r := deliveredWord n s
    andThen (onPulses n r.1 32 (rearmRotation n r.2)) fun t => .next (advanceHead n len t)

/-! ## The controller's timer -/

/-- What the timer does when it fires (10_state.md R41). A step whose drive is no longer selected, which no run
reaches, stops (log entry 8). -/
def onTimer (s : State) : Result :=
  match s.cont with
  | .none => .next s
  | .step =>
    if s.fsm = .seekStep then
      match s.cur with
      | none => .fault .noDriveSelected
      | some n => seekStep n s
    else .next s
  | .postSeek => .next (postSeek s)
  | .latch code => .next (latch code s)

/-! ## The scheduler -/

/-- `a` fires before `b` (40_environment.md R124): the earlier expiry, and of equal ones the one scheduled
first. -/
def Armed.before (a b : Armed) : Bool := a.expiry < b.expiry || (a.expiry == b.expiry && a.seq < b.seq)

/-- The earlier of two armed tasks. -/
def earlier (a b : Option (Task × Armed)) : Option (Task × Armed) :=
  match a, b with
  | none, b => b
  | a, none => a
  | some x, some y => if y.2.before x.2 then some y else some x

/-- The armed task with the least expiry and sequence number, if any (40_environment.md R124). -/
def State.nextTask (s : State) : Option (Task × Armed) :=
  earlier (s.timer.map fun a => (.timer, a))
    (earlier (s.drive0.rotation.map fun a => (.rotation .d0, a)) (s.drive1.rotation.map fun a => (.rotation .d1, a)))

/-- `ticksUntilNextTask()` (40_environment.md R124); `none` stands for "infinite". -/
def State.ticksUntilNextTask (s : State) : Option Nat := s.nextTask.map fun x => x.2.expiry - s.epoch

/-- A task fires: the epoch is its expiry, it is disarmed, and its callback runs (40_environment.md R124). The
rotation timer is armed again by its own callback. -/
def fire (task : Task) (a : Armed) (s : State) : Result :=
  match task with
  | .timer => onTimer { s with epoch := a.expiry, timer := none }
  | .rotation n => onRotation n { s with epoch := a.expiry }

/-! ## The host's other actions -/

/-- A disc may change only while no drive command is in progress (40_environment.md R142). -/
def mayChangeDisc (s : State) : Bool := s.fsm == .idle || s.fsm == .params

/-- A disc is built (40_environment.md R125): any well-formed one whose tracks keep the bound of 00_scope.md R9
(log entry 10). It is on no drive yet. -/
def buildDisc (disc : Disc) (s : State) : Result :=
  if disc.wf then
    if disc.fits s.cfg then .next { s with discs := s.discs ++ [disc] } else .refused .trackTooShort
  else .refused .malformedDisc

/-- The number names a disc there is. -/
def State.hasDisc (s : State) (k : Nat) : Bool := decide (k < s.discs.length)

/-- `setDisc(disc)` (40_environment.md R129, R142): any disc there is, whatever it waits to flush, in whichever drive
it is already. -/
def changeDisc (n : DriveId) (disc : Option Nat) (s : State) : Result :=
  if mayChangeDisc s then
    if disc.all s.hasDisc then .next (s.setDrive n ((s.drive n).withDisc disc)) else .refused .noSuchDisc
  else .refused .discChange

/-- The host sets a disc's write-protect flag (40_environment.md R142). -/
def protectDisc (disc : Nat) (on : Bool) (s : State) : Result :=
  if mayChangeDisc s then
    if s.hasDisc disc then .next { s with discs := s.discs.modify disc (Disc.protect on) } else .refused .noSuchDisc
  else .refused .discChange

/-- One event of `advance(ticks)` (40_environment.md R124): a task that is due fires, with the rest of the ticks
still to come; with none due the epoch moves to the end. -/
def advanceBy (ticks : Nat) (rest : List HostAction) (s : State) : Result :=
  match s.nextTask with
  | some (task, a) =>
    if a.expiry ≤ s.epoch + ticks then
      fire task a { s with host := .advance (s.epoch + ticks - a.expiry) :: rest }
    else .next { s with epoch := s.epoch + ticks, host := rest }
  | none => .next { s with epoch := s.epoch + ticks, host := rest }

end Sys2Proof.Machine
end

