-- ==== Sys2Proof/Machine/Step.lean ====
section
/-! DEFINITION. One step of the system (00_scope.md R8, 20_memory.md R70, R71): the host's next action, taken between
scheduler events, or one scheduler event. -/

namespace Sys2Proof.Machine

/-- A frame the host presents: the instruction it decodes to, or what becomes of one that is none. -/
def accessFrame (f : Frame) (s : State) : Result :=
  match decode f with
  | .ok i => exec i s
  | .error r => refuseFrame r s

/-- One step: the host's next action. `advance` runs one event at a time and stays until its ticks are used up. A host
with no action left advances no time, and whatever waits goes on waiting (40_environment.md R143 f). -/
def step (s : State) : Host.Outcome State Fault Refusal :=
  match s.host with
  | [] => .next s
  | .access f :: rest => accessFrame f { s with host := rest }
  | .advance ticks :: rest => advanceBy ticks rest s
  | .newDisc disc :: rest => buildDisc disc { s with host := rest }
  | .setDisc n disc :: rest => changeDisc n disc { s with host := rest }
  | .setWriteProtect disc on :: rest => protectDisc disc on { s with host := rest }
  | .systemReset :: rest => .next (resetController { s with host := rest })

/-- The state whose very next step runs the instruction that spec/opcode_table.json numbers `w` (log entry 7): the
host presents its frame before anything else. -/
def State.withFetchWord (s : State) (nbits w : Nat) : State :=
  { s with host := .access (tableFrame nbits w) :: s.host }

end Sys2Proof.Machine
end

