-- ==== Sys2Proof/Safety.lean ====
section
/-! DEFINITION. What counts as a safe step, what a reader of a disc sees, and the invariants of the machine, in the
terms the statements use. -/

namespace Sys2Proof.Machine

/-! ## Safe steps -/

/-- A step that neither faults nor is refused. -/
def Completes (r : Result) : Prop := ∃ t, r = .next t

/-- The two faults 60_exceptions.md R432 calls unreachable do not happen. -/
def NoInternalFault (r : Result) : Prop := r ≠ .fault .doubleSchedule ∧ r ≠ .fault .secondDirtyTrack

/-! ## Reading a disc -/

/-- One byte of a track's recorded slots (Memory.lean): byte `a` of track `phys` of side `sd` of disc `k`; a disc or a
track that is not there reads as a blank one. -/
def State.discByte (s : State) (k : Nat) (sd : Side) (phys a : Nat) : Byte :=
  match (s.discs[k]?).bind fun d => d.track sd phys with
  | none => Memory.blank
  | some t => t.cells.read a

/-- Two states hold the same recorded slots. -/
def SameDiscBytes (s t : State) : Prop := ∀ k sd phys a, t.discByte k sd phys a = s.discByte k sd phys a

/-- Two states hold the same discs, but for which track waits for a flush, in the same drives. -/
def SameDiscs (s t : State) : Prop :=
  t.discs.map Disc.flush = s.discs.map Disc.flush ∧ ∀ n, (t.drive n).disc = (s.drive n).disc

/-- The discs of a state with the one in drive `n`, if there is one, flushed (40_environment.md R127). -/
def State.discsFlushedIn (s : State) (n : DriveId) : List Disc :=
  match (s.drive n).disc with
  | none => s.discs
  | some k => s.discs.modify k fun d => { d with dirty := none }

/-! ## The output port -/

/-- The port after a command's select bits have been applied (43_command_protocol.md R206): nothing changes where
they equal the port's; else only the side line survives. -/
def selectedPort (sel : BitVec 2) (out : Byte) : Byte :=
  if sel = selOf out then out else (out &&& 0x20) ||| (sel ++ 0#6)

/-- Drive `d`, referring to the disc `disc`, with its head turned to a side: its angular position is kept
(40_environment.md R137). -/
def Drive.turned (d : Drive) (c : Params) (disc : Option Disc) (sd : Side) : Drive :=
  { d with side := sd, word := rescale d.word (trackLen c disc d.side d.phys) (trackLen c disc sd d.phys) }

/-- Drive `d` after a step pulse (40_environment.md R134, R137): one track on, its angular position kept. -/
def Drive.stepped (d : Drive) (c : Params) (disc : Option Disc) (double dirIn : Bool) : Drive :=
  { d with
    phys := steppedTrack c double dirIn d.phys
    word := rescale d.word (trackLen c disc d.side d.phys)
      (trackLen c disc d.side (steppedTrack c double dirIn d.phys)) }

/-- `t` is `s` after `v` was written to the output port (43_command_protocol.md R207): the lines reach the drives at
once, a present drive spins exactly if it is current with its head loaded (R208), a drive that starts gets its first
chunk one period later (40_environment.md R130), the side line reaches the current drive and keeps its angular
position, its disc flushed first (R137), an absent drive ignores every line (R128), and nothing else changes. -/
structure PortWritten (v : Byte) (s t : State) : Prop where
  port : t.driveOut = v &&& 0xFD
  rotation : ∀ n, present s.cfg n = true →
    (t.drive n).rotation
      = if t.cur = some n ∧ t.headLoaded = true then
          some ((s.drive n).rotation.getD { expiry := s.epoch + s.cfg.pulsePeriod, seq := s.nextSeq })
        else none
  side : ∀ n, present s.cfg n = true →
    (t.drive n).side = if t.cur = some n then sideOfLine (v.getLsbD 5) else (s.drive n).side
  kept : ∀ n, (t.drive n).side = (s.drive n).side → t.drive n = (s.drive n).withRotation (t.drive n).rotation
  turned : ∀ n, (t.drive n).side ≠ (s.drive n).side →
    t.drive n = ((s.drive n).turned s.cfg (s.disc n) (t.drive n).side).withRotation (t.drive n).rotation
  absent : ∀ n, present s.cfg n = false → t.drive n = s.drive n
  flushed : ∀ n, (t.drive n).side ≠ (s.drive n).side → t.discs = s.discsFlushedIn n
  discs_kept : (∀ n, (t.drive n).side = (s.drive n).side) → t.discs = s.discs
  started : ∀ n, (s.drive n).rotation = none → (t.drive n).rotation ≠ none → t.nextSeq = s.nextSeq + 1
  none_started : (∀ n, (s.drive n).rotation = none → (t.drive n).rotation = none) → t.nextSeq = s.nextSeq
  unload : t.unload = if t.cur ≠ s.cur ∨ t.headLoaded = false then none else s.unload
  rest : t = { s with
    driveOut := t.driveOut, drive0 := t.drive0, drive1 := t.drive1, discs := t.discs, nextSeq := t.nextSeq
    unload := t.unload }

/-- `t` is `s` after the select bits of a command were applied (43_command_protocol.md R206). -/
def Selected (sel : BitVec 2) (s t : State) : Prop :=
  if sel = selOf s.driveOut then t = s else PortWritten (selectedPort sel s.driveOut) s t

/-! ## Starting a drive command -/

/-- The operands a command accepts (43_command_protocol.md R215), from its parameter bytes: a sector or ID count
other than 0, and no index gap in a format. -/
def operandsAccepted (op : Op) (ps : List Byte) : Prop :=
  match op with
  | .readVar | .readDelVar | .verifyVar | .writeVar | .writeDelVar => countOf (ps.getD 2 0) ≠ 0
  | .readId => ps.getD 2 0 ≠ 0
  | .format => countOf (ps.getD 2 0) ≠ 0 ∧ ps.getD 3 0 = 0
  | .read128 | .readDel128 | .verify128 | .write128 | .writeDel128 | .seek => True
  | .scan | .scanDel | .readStatus | .specify | .writeSpecial | .readSpecial => True

/-- A drive command with these parameters passes every check of its dispatch on drive `n`
(43_command_protocol.md R210): non-DMA mode for a transfer (R214), operands accepted (R215), a present drive with a
disc (R209), not write protected for a command that writes (R213). -/
structure Startable (op : Op) (n : DriveId) (ps : List Byte) (s : State) : Prop where
  nonDma : op.isTransfer = true → s.regs.nonDma = true
  operands : operandsAccepted op ps
  drive_present : present s.cfg n = true
  disc_loaded : (s.disc n).isSome = true
  writable : op.checksWriteProtect = true → s.protectedDisc n = false

/-- The physical target of a command: its track parameter, adjusted (44_seek.md R241, R242). -/
def seekTarget (n : DriveId) (ps : List Byte) (s : State) : Byte := adjust s.regs n (ps.getD 0 0)

/-- The seek begins with a step (44_seek.md R247): to track 0 while the drive is elsewhere, to another track while
the track register differs from it. -/
def needsStep (n : DriveId) (ps : List Byte) (s : State) : Prop :=
  if seekTarget n ps s = 0 then (s.drive n).phys ≠ 0 else seekTarget n ps s ≠ s.regs.track n

/-- The seek steps towards higher track numbers (44_seek.md R241). -/
def seeksIn (n : DriveId) (ps : List Byte) (s : State) : Bool :=
  decide (seekTarget n ps s ≠ 0) && decide (s.regs.track n < seekTarget n ps s)

/-- The steps a seek may take (44_seek.md R241). -/
def seekBudget (n : DriveId) (ps : List Byte) (s : State) : Nat :=
  if seekTarget n ps s = 0 then s.cfg.recalStepLimit
  else ((seekTarget n ps s).toNat - (s.regs.track n).toNat) + ((s.regs.track n).toNat - (seekTarget n ps s).toNat)

/-- The port of a drive command that has loaded the head and set the direction (43_command_protocol.md R206, R212,
44_seek.md R241). -/
def startedPort (sel : BitVec 2) (inward : Bool) (out : Byte) : Byte :=
  ((((selectedPort sel out ||| 0x08) &&& 0xFB) ||| (if inward then 0x04 else 0x00)) &&& 0xFD)

/-- The head was unloaded when the command raised the load-head line (43_command_protocol.md R212). -/
def headWasUp (sel : BitVec 2) (out : Byte) : Bool := !(selectedPort sel out).getLsbD 3

/-- The head-load delay of a command, in ticks (44_seek.md R250): none where the head was down already. -/
def headDelay (sel : BitVec 2) (s : State) : Nat :=
  if headWasUp sel s.driveOut = true then s.regs.headLoadUnload.toNat % 16 * s.cfg.headLoadUnit else 0

/-- `t` is the machine as a drive command leaves it before the first step of its seek, the command byte `c` and the
parameters `ps` given: the command is accepted, its operands are set (43_command_protocol.md R211), its select bits
applied (R206), the head of drive `n` loaded (R212), the seek planned and its direction set (44_seek.md R241), with
three writes of the port at most; nothing else has changed. What that leaves of the port, the drives and the discs is
said beside it: drive `n` spins, every other one is stopped, and no recorded slot has changed. -/
structure Started (op : Op) (n : DriveId) (c : Byte) (ps : List Byte) (s t : State) : Prop where
  writes : ∃ a b w, Selected (selOf c) s a ∧ PortWritten (a.driveOut ||| 0x08) { a with unload := none } b
    ∧ PortWritten (if seeksIn n ps s then b.driveOut ||| 0x04 else b.driveOut &&& 0xFB) b w
    ∧ t = { w with
        cmd := c, params := ps, nexp := ps.length, busy := true, fsm := .seekStep
        op := operandsOf op (fun k => ps.getD k 0) s.op, deletedSeen := false
        seek := {
          target := seekTarget n ps s, recal := decide (seekTarget n ps s = 0), dirIn := seeksIn n ps s
          steps := seekBudget n ps s, stepped := false, newlyLoaded := headWasUp (selOf c) s.driveOut } }
  port : t.driveOut = startedPort (selOf c) (seeksIn n ps s) s.driveOut
  spins : (t.drive n).spinning = true
  others_stop : ∀ m, m ≠ n → present s.cfg m = true → (t.drive m).spinning = false
  tracks : ∀ m, (t.drive m).phys = (s.drive m).phys
  discs : SameDiscs s t
  no_unload : t.unload = none

/-- `t` is the machine as a drive command leaves it before its mechanical checks, the command byte `c` and the
parameters `ps` given: accepted, its operands set (43_command_protocol.md R211), its select bits applied (R206), the
head of its drive loaded (R212); nothing else has changed. -/
def HeadLoadedFor (op : Op) (c : Byte) (ps : List Byte) (s t : State) : Prop :=
  ∃ a b, Selected (selOf c) s a ∧ PortWritten (a.driveOut ||| 0x08) { a with unload := none } b
    ∧ t = { b with
        cmd := c, params := ps, nexp := ps.length, busy := true, fsm := .params
        op := operandsOf op (fun k => ps.getD k 0) s.op, deletedSeen := false
        seek := { s.seek with newlyLoaded := headWasUp (selOf c) s.driveOut } }

/-- Where the heads stand: no drive's physical track has moved. -/
def SameTracks (s t : State) : Prop := ∀ n, (t.drive n).phys = (s.drive n).phys

/-! ## Results -/

/-- The result bytes a drive command may end with (60_exceptions.md R421). -/
def possibleResults : Op → List Byte
  | .seek => [0x00, 0x10]
  | .read128 | .readVar | .readDel128 | .readDelVar =>
    [0x00, 0x08, 0x0A, 0x0C, 0x0E, 0x10, 0x18, 0x20, 0x28, 0x2A, 0x2C, 0x2E, 0x38]
  | .verify128 | .verifyVar => [0x00, 0x08, 0x0C, 0x0E, 0x10, 0x18, 0x20, 0x28, 0x2C, 0x2E, 0x38]
  | .readId => [0x00, 0x08, 0x0A, 0x0C, 0x10, 0x18]
  | .write128 | .writeVar | .writeDel128 | .writeDelVar => [0x00, 0x0A, 0x0C, 0x10, 0x12, 0x18]
  | .format => [0x00, 0x0A, 0x10, 0x12]
  | .scan | .scanDel | .readStatus | .specify | .writeSpecial | .readSpecial => []

/-- The deleted-data flag a completion adds (60_exceptions.md R411): the read family's, once a deleted mark has been
read. -/
def flagOf (s : State) : Byte := if s.inReadFamily = true ∧ s.deletedSeen = true then 0x20 else 0x00

/-- `t` is `s` after the result `code` was latched (60_exceptions.md R413, R414): the controller is idle, the result
stands with its interrupt, the data request is gone, and the head's unloading begins: it never unloads, or unloads at
once, or after the count of index edges. Nothing else changes. -/
def Latched (code : Byte) (s t : State) : Prop :=
  ∃ u : State, u = { s with
      fsm := .idle, drq := false, result := code, busy := false, resultFull := true, irq := true, intLine := true }
    ∧ (s.regs.headLoadUnload.toNat / 16 = 15 → t = { u with unload := none })
    ∧ (s.regs.headLoadUnload.toNat / 16 = 0 → PortWritten (s.driveOut &&& 0xF7) u t)
    ∧ (s.regs.headLoadUnload.toNat / 16 ≠ 15 → s.regs.headLoadUnload.toNat / 16 ≠ 0 →
      t = { u with unload := some (s.regs.headLoadUnload.toNat / 16) })

/-- `t` is `s` after a drive command has ended in `s` with the result `code` (60_exceptions.md R411 to R413): the
write gate is off and the timer disarmed; with no completion delay the result and its interrupt are latched at once;
else the controller waits, still busy, for its timer to latch them, and result, interrupt and data request stay as they
were. What that leaves of each register is said beside it. -/
def EndsWith (code : Byte) (s t : State) : Prop :=
  t.writeGate = false ∧ t.regs = s.regs ∧ t.data = s.data ∧ t.cmd = s.cmd ∧ t.op = s.op ∧ t.epoch = s.epoch
    ∧ SameTracks s t ∧ SameDiscs s t
    ∧ (if s.cfg.completionDelay = 0 then
        t.fsm = .idle ∧ t.busy = false ∧ t.resultFull = true ∧ t.result = code ∧ t.irq = true ∧ t.intLine = true
          ∧ t.drq = false ∧ t.timer = none ∧ t.cont = .none
      else
        t.fsm = .completing ∧ t.cont = .latch code
          ∧ t.timer.map Armed.expiry = some (s.epoch + s.cfg.completionDelay)
          ∧ t.busy = s.busy ∧ t.resultFull = s.resultFull ∧ t.result = s.result ∧ t.irq = s.irq
          ∧ t.intLine = s.intLine ∧ t.drq = s.drq)
    ∧ ∃ g, PortWritten (s.driveOut &&& 0xFE) s g
      ∧ (if s.cfg.completionDelay = 0 then Latched code { g with timer := none, cont := .none } t
        else t = { g with
          fsm := .completing, cont := .latch code
          timer := some { expiry := s.epoch + s.cfg.completionDelay, seq := g.nextSeq }, nextSeq := g.nextSeq + 1 })

/-- `t` is `s` after a mechanical check has ended a drive command in its dispatch, with the result `code`
(43_command_protocol.md R213): the head load has been done and stays, unless the command's end latches at once and
unloads at once (60_exceptions.md R414); no head has moved; with a completion delay result, interrupt and data request
are as they were (R412). -/
def EndedByCheck (code : Byte) (op : Op) (c : Byte) (ps : List Byte) (s t : State) : Prop :=
  ∃ u, HeadLoadedFor op c ps s u ∧ EndsWith code u t
    ∧ u.headLoaded = true ∧ u.busy = true ∧ u.cfg = s.cfg ∧ u.regs = s.regs ∧ u.epoch = s.epoch
    ∧ SameTracks s t ∧ SameDiscs s t
    ∧ (s.cfg.completionDelay ≠ 0 ∨ s.regs.headLoadUnload.toNat / 16 ≠ 0 → t.headLoaded = true)
    ∧ (s.cfg.completionDelay ≠ 0 →
      t.result = s.result ∧ t.resultFull = s.resultFull ∧ t.irq = s.irq ∧ t.intLine = s.intLine ∧ t.drq = s.drq)

/-! ## Rotation -/

/-- Drive `n` delivers the word `w` in `s`, which leaves `t` (40_environment.md R131, R132): the word under its head; a
nonzero draw where that is 0; a draw with no disc, and where the disc records nothing (log entry 9). -/
def Delivers (n : DriveId) (s : State) (w : Slots) (t : State) : Prop :=
  (∀ d trk, s.disc n = some d → d.track (s.drive n).side (s.drive n).phys = some trk → (s.drive n).word < trk.length →
    (trk.cells.readWord (s.drive n).word ≠ 0 → w = trk.cells.readWord (s.drive n).word ∧ t = s)
    ∧ (trk.cells.readWord (s.drive n).word = 0 → w ≠ 0 ∧ t = { s with draws := s.draws + 1 }))
  ∧ (t = s ∨ t = { s with draws := s.draws + 1 })

/-! ## Searching -/

/-- `t` is `s` after a header or a data field has been passed over (45_bitstream.md R282): the ID search begins again
with a fresh shift register and the index count as it was, which may end the command. -/
def PassedOver (s t : State) : Prop :=
  (s.indexCount < s.cfg.idSearchLimit → t = { s with fsm := .searchId, sr := 0 })
    ∧ (s.cfg.idSearchLimit ≤ s.indexCount → EndsWith (0x18 ||| flagOf s) { s with fsm := .searchId, sr := 0 } t)

/-! ## Recording -/

/-- The clock and data byte a write item records, from the state in which it is encoded (47_write_commands.md
R341). -/
def itemByte (it : WriteItem) (s : State) : Byte × Byte :=
  match it with
  | .lit c d => (c, d)
  | .mark d => (0xC7, d)
  | .fill d => (0xFF, d)
  | .host => (0xFF, s.data)
  | .crcHi => (0xFF, s.cap.crc.extractLsb' 8 8)
  | .crcLo => (0xFF, s.cap.crc.extractLsb' 0 8)
  | .gap4 => (0xFF, 0xFF)

/-- The running CRC after a write item (47_write_commands.md R341). -/
def itemCrc (it : WriteItem) (s : State) : Half :=
  match it with
  | .mark d => crcByte 0xFFFF d
  | .fill d => crcByte s.cap.crc d
  | .host => crcByte s.cap.crc s.data
  | .lit .. | .crcHi | .crcLo | .gap4 => s.cap.crc

/-! ## The controller's timer on its own -/

/-- The controller's timer fires, if it is armed. -/
def fireTimer (s : State) : Result :=
  match s.timer with
  | none => .next s
  | some a => fire .timer a s

/-- `k` firings of the controller's timer. -/
def fireTimerTimes : Nat → State → Result
  | 0, s => .next s
  | k + 1, s => andThen (fireTimer s) (fireTimerTimes k)

/-- The track `k` steps away (40_environment.md R134). -/
def steppedTimes (c : Params) (double dirIn : Bool) : Nat → Nat → Nat
  | 0, phys => phys
  | k + 1, phys => steppedTimes c double dirIn k (steppedTrack c double dirIn phys)

/-! ## Classes of FSM states -/

/-- The states in which the controller's timer is armed (10_state.md R41). -/
def Fsm.timed : Fsm → Bool
  | .seekStep | .seekSettle | .completing => true
  | .idle | .params | .searchId | .inId | .searchData | .inData => false
  | .writeSkipGap2 | .writeData | .formatWaitIndex | .formatWrite => false

/-- The states in which the controller writes (47_write_commands.md R340). -/
def Fsm.writes : Fsm → Bool
  | .writeData | .formatWrite => true
  | .idle | .params | .seekStep | .seekSettle | .searchId | .inId | .searchData | .inData => false
  | .writeSkipGap2 | .formatWaitIndex | .completing => false

/-- A drive command is running: 40_environment.md R142 lists the two states in which none is. -/
def Fsm.running (f : Fsm) : Bool := f != .idle && f != .params

/-- What the timer does next belongs to the state that waits for it (10_state.md R41). -/
def contMatches : Fsm → Cont → Bool
  | .seekStep, c => c == .step
  | .seekSettle, c => c == .postSeek
  | .completing, c => match c with
    | .latch _ => true
    | .none | .step | .postSeek => false
  | .idle, _ | .params, _ | .searchId, _ | .inId, _ | .searchData, _ | .inData, _ => true
  | .writeSkipGap2, _ | .writeData, _ | .formatWaitIndex, _ | .formatWrite, _ => true

/-- The command whose phase a state is (46_read_commands.md R300, 47_write_commands.md R340, R360): which command
can be running in each FSM state. -/
def phaseFits (f : Fsm) (op : Option Op) : Bool :=
  match f with
  | .idle | .params => true
  | .seekStep | .seekSettle | .completing => op.any Op.isDrive
  | .searchId | .inId => op.any fun o => o.inReadFamily || o.inWriteFamily || o == .readId
  | .searchData | .inData => op.any Op.inReadFamily
  | .writeSkipGap2 | .writeData => op.any Op.inWriteFamily
  | .formatWaitIndex | .formatWrite => op == some .format

/-! ## Invariants -/

/-- The controller's sequencing: busy outside `IDLE` (43_command_protocol.md R205), the line equal to `irq`
(10_state.md R23), the step line never stored (44_seek.md R246), the timer armed in the states of 10_state.md R41 and
for what they wait for, the write gate on while the controller writes (47_write_commands.md R340), a drive selected
while a drive command runs, and parameters still to come in `PARAMS` (R201). -/
structure State.SequenceInv (s : State) : Prop where
  busy_iff : s.busy = decide (s.fsm ≠ .idle)
  line_follows : s.intLine = s.irq
  no_step_line : s.driveOut.getLsbD 1 = false
  timer_iff : s.timer.isSome = s.fsm.timed
  cont_matches : contMatches s.fsm s.cont = true
  gate_on : s.fsm.writes = true → s.writeGate = true
  selected : s.fsm.running = true → s.cur.isSome = true
  params_missing : s.fsm = .params → s.params.length < s.nexp

/-- A drive command runs only in its own phases, the code that waits in `COMPLETING` is one it may end with
(60_exceptions.md R421), and a data request is pending only while a drive command runs (R425). -/
structure State.PhaseInv (s : State) : Prop where
  fits : phaseFits s.fsm s.command = true
  latched : ∀ code op, s.fsm = .completing → s.cont = .latch code → s.command = some op → code ∈ possibleResults op
  request_runs : s.drq = true → s.fsm.running = true

/-- The lines have reached the drives: a drive spins exactly while it is present, current and its head loaded
(43_command_protocol.md R208), and the current drive is on the side the side line names (R207). -/
structure State.LinesInv (s : State) : Prop where
  spins : ∀ n, (s.drive n).spinning = (present s.cfg n && decide (s.cur = some n) && s.headLoaded)
  side_follows : ∀ n, present s.cfg n = true → s.cur = some n → (s.drive n).side = sideOfLine (s.driveOut.getLsbD 5)

/-- The discs are well formed, their recorded slots in canonical form, every track longer than the index pulse
(00_scope.md R9), and a drive refers only to a disc there is. -/
structure State.DiscInv (s : State) : Prop where
  discs_ok : ∀ d ∈ s.discs, d.wf = true ∧ d.fits s.cfg = true
  references : ∀ n k, (s.drive n).disc = some k → k < s.discs.length

/-- Only the track under a drive's head waits for a flush (20_memory.md R77), and no disc is in both drives. -/
structure State.FlushInv (s : State) : Prop where
  under_head : ∀ n d, s.disc n = some d → d.dirty = none ∨ d.dirty = some ((s.drive n).side, (s.drive n).phys)
  not_shared : ∀ k, (s.drive .d0).disc = some k → (s.drive .d1).disc ≠ some k

/-- The host loads no disc that waits for a flush, and none that is in the other drive (log entry 18). -/
def State.loadsFlushedDisc (s : State) : Prop :=
  ∀ n k rest, s.host = .setDisc n (some k) :: rest →
    (∀ d, s.discs[k]? = some d → d.dirty = none) ∧ ∀ m, m ≠ n → (s.drive m).disc ≠ some k

/-- A task is armed for no time before the present, and was scheduled before anything scheduled from now on
(40_environment.md R120, R122). -/
def armedOk (s : State) (a : Option Armed) : Prop := ∀ x, a = some x → s.epoch ≤ x.expiry ∧ x.seq < s.nextSeq

/-- No armed task lies in the past (40_environment.md R124). -/
def State.TimeInv (s : State) : Prop := armedOk s s.timer ∧ ∀ n, armedOk s (s.drive n).rotation

/-- The ranges of 10_state.md: of the parameters (R26), the slot count and what it counts to in each state (R32), the
operands (R33), the steps of a seek (R34), the bytes of a field while it is captured (R35), the slots queued between
chunks (R38), the unload countdown (R39), and the heads' tracks (R55). -/
structure State.RangeInv (s : State) : Prop where
  params_range : s.params.length ≤ 5 ∧ s.nexp ≤ 5
  slots_range : s.cfg.wf = true →
    s.nbits ≤ s.cfg.dataMarkWindow ∧ (s.fsm = .inId ∨ s.fsm = .inData → s.nbits < 32)
      ∧ (s.fsm = .searchData → s.nbits < s.cfg.dataMarkWindow)
      ∧ (s.fsm = .writeSkipGap2 → s.nbits < 32 * 11 ∧ s.wr.skipDone = false)
  size_range : ∃ j, j ≤ 7 ∧ s.op.size = 128 * 2 ^ j
  count_range : s.op.count ≤ 255
  steps_range : s.cfg.recalStepLimit ≤ 255 → s.seek.steps ≤ 255
  id_range : s.cap.idb.length ≤ 6 ∧ (s.fsm = .inId → s.cap.idb.length < 6)
  data_range : s.fsm = .inData → s.cap.nbytes < s.op.size + 2 ∧ s.cap.crcb.length = s.cap.nbytes - s.op.size
  fifo_short : s.wr.fifo.length ≤ 31
  unload_range : ∀ k, s.unload = some k → 1 ≤ k ∧ k ≤ 14
  phys_range : 1 ≤ s.cfg.maxTrack → ∀ n, (s.drive n).phys < s.cfg.maxTrack

end Sys2Proof.Machine
end

