-- ==== Sys2Proof/Certificates/Slice0/Obligations.lean ====
section
/-! DEFINITION. The statements for the provers, in the order of OBLIGATIONS.json: the encoding, the step, the bus
accesses, the management commands, the start of the drive commands, the seek, the codec, the bitstream, recording,
completion, time, and the invariants every step keeps. -/

open Sys2Proof Sys2Proof.Machine

/-! ## Encoding -/

/-- Every well-formed instruction is what its frame decodes to (30_encoding.md R85, R86, R98, R101). -/
def Obligations.DecodeOfEncodeIsTheInstruction : Prop :=
  ∀ i : Instr, i.wf = true → decode (encode i) = .ok i

/-- A frame that decodes is the frame of the instruction it decodes to, which is well formed: no bit of a frame is
dropped (30_encoding.md R80, R85, R98). -/
def Obligations.EncodeOfDecodeIsTheFrame : Prop :=
  ∀ (f : Frame) (i : Instr), decode f = .ok i → i.wf = true ∧ encode i = f

/-- Byte sequences the spec writes out decode to the instruction it names beside them: 30_encoding.md R101 and the
examples of 44_seek.md R255, 46_read_commands.md R313, 47_write_commands.md R351, 48_management_commands.md R380 to
R387, 42_host_registers.md R175 to R180; the byte of the `FORMAT` is `sel | code` of R101 for the command R365 writes. -/
def Obligations.HandWrittenFramesDecode : Prop :=
  decode (.command [0x53, 0x00, 0x03, 0x21]) = .ok (.readVar 1 0x00 0x03 0x21)
    ∧ decode (.command [0x57, 0x00, 0x02, 0x23]) = .ok (.readDelVar 1 0x00 0x02 0x23)
    ∧ decode (.command [0x4B, 0x00, 0x02, 0x21]) = .ok (.writeVar 1 0x00 0x02 0x21)
    ∧ decode (.command [0x63, 0x01, 0x10, 0x25, 0x00, 0x10]) = .ok (.format 1 0x01 0x10 0x25 0x00 0x10)
    ∧ decode (.command [0x69, 0x05]) = .ok (.seek 1 0x05)
    ∧ decode (.command [0x6C]) = .ok (.readStatus 1)
    ∧ decode (.command [0x35, 0x0D, 0x0C, 0x0A, 0x21]) = .ok (.specify 0 0x0D 0x0C 0x0A 0x21)
    ∧ decode (.command [0x7A, 0x17, 0xC1]) = .ok (.writeSpecial 1 0x17 0xC1)
    ∧ decode (.command [0x7D, 0x12]) = .ok (.readSpecial 1 0x12)
    ∧ decode (.read 2) = .ok (.rdUnmapped 2)
    ∧ decode (.write 2 0x01) = .ok (.wrReset 0x01)
    ∧ decode (.write 3 0xFF) = .ok (.wrUnmapped 0xFF)
    ∧ decode (.write 4 0xAA) = .ok (.wrData 4 0xAA)

/-- The command map: a command byte with one of the nineteen documented codes, whatever its select bits, begins an
instruction of exactly the number of parameters the table gives it (30_encoding.md R81, R84, R85). -/
def Obligations.DocumentedCodesTakeTheirParameters : Prop :=
  ∀ (sel : BitVec 2) (ps : List Byte) (row : BitVec 6 × Nat),
    row ∈ ([(0x00, 5), (0x04, 5), (0x0A, 2), (0x0B, 3), (0x0E, 2), (0x0F, 3), (0x12, 2), (0x13, 3), (0x16, 2),
      (0x17, 3), (0x1B, 3), (0x1E, 2), (0x1F, 3), (0x23, 5), (0x29, 1), (0x2C, 0), (0x35, 4), (0x3A, 2),
      (0x3D, 1)] : List (BitVec 6 × Nat)) →
    ((∃ i, decode (.command ((sel ++ row.1) :: ps)) = .ok i) ↔ ps.length = row.2)

/-- The command bytes that are refused when written: an undocumented code (30_encoding.md R82), and the two scan
codes, as whole commands too (48_management_commands.md R400); while busy the write is a fault instead
(43_command_protocol.md R200). -/
def Obligations.UnmodelledCommandBytesAreRefused : Prop :=
  (∀ (c : Byte) (s : State), s.busy = false →
      (c.extractLsb' 0 6).toNat ∉ ([0x00, 0x04, 0x0A, 0x0B, 0x0E, 0x0F, 0x12, 0x13, 0x16, 0x17, 0x1B, 0x1E, 0x1F,
        0x23, 0x29, 0x2C, 0x35, 0x3A, 0x3D] : List Nat) →
      exec (.wrCommand c) s = .refused .undocumentedCommand)
    ∧ (∀ (sel : BitVec 2) (s : State), s.busy = false →
      exec (.wrCommand (sel ++ 0x00#6)) s = .refused .scanUnmodelled
        ∧ exec (.wrCommand (sel ++ 0x04#6)) s = .refused .scanUnmodelled)
    ∧ (∀ (sel : BitVec 2) (p0 p1 p2 p3 p4 : Byte) (s : State), s.busy = false →
      exec (.scan sel p0 p1 p2 p3 p4) s = .refused .scanUnmodelled
        ∧ exec (.scanDel sel p0 p1 p2 p3 p4) s = .refused .scanUnmodelled)
    ∧ (∀ (sel : BitVec 2) (c p0 p1 p2 p3 p4 : Byte) (s : State), s.busy = true →
      exec (.wrCommand c) s = .fault .commandWhileBusy
        ∧ exec (.scan sel p0 p1 p2 p3 p4) s = .fault .commandWhileBusy
        ∧ exec (.scanDel sel p0 p1 p2 p3 p4) s = .fault .commandWhileBusy)

/-! ## The step -/

/-- When the host's next action presents a frame that decodes, the step is the meaning of the instruction, on the
machine with that action taken off the queue (20_memory.md R70, R71, R75; the queue is the model's, log entry 7). -/
def Obligations.StepRunsTheDecodedInstruction : Prop :=
  ∀ (s : State) (f : Frame) (rest : List HostAction) (i : Instr),
    s.host = .access f :: rest → decode f = .ok i → step s = exec i { s with host := rest }

/-- A whole command does exactly what its bytes do one by one: the command byte written to offset 0 and then each
parameter to offset 1 (30_encoding.md R85, R101, 43_command_protocol.md R200, R201, R204). A stop on the way is the
stop of the command. -/
def Obligations.CommandIsItsByteWrites : Prop :=
  ∀ (i : Instr) (c : Byte) (ps : List Byte) (s : State),
    encode i = .command (c :: ps) →
    exec i s = ps.foldl (fun r v => andThen r (exec (.wrParam v))) (exec (.wrCommand c) s)

/-! ## Bus accesses -/

/-- `RD_STATUS` gives the status byte, bit by bit, and changes nothing (10_state.md R45, 30_encoding.md R92,
42_host_registers.md R171). What the access returns is held in `readData` (the model's field, log entry 6). -/
def Obligations.StatusReadGivesTheFlags : Prop :=
  ∀ s : State, ∃ v : Byte, exec .rdStatus s = .next { s with readData := v }
    ∧ v.getLsbD 7 = s.busy ∧ v.getLsbD 6 = false ∧ v.getLsbD 5 = false ∧ v.getLsbD 4 = s.resultFull
    ∧ v.getLsbD 3 = s.irq ∧ v.getLsbD 2 = s.drq ∧ v.getLsbD 1 = false ∧ v.getLsbD 0 = false

/-- `RD_RESULT` gives the result register, empties it and lowers the interrupt line; everything else stays
(42_host_registers.md R173). What the access returns is held in `readData` (the model's field, log entry 6). -/
def Obligations.ResultReadEmptiesTheResult : Prop :=
  ∀ s : State, exec .rdResult s
    = .next { s with readData := s.result, resultFull := false, irq := false, intLine := false }

/-- The data accesses, at each of their offsets, serve the data request: `RD_DATA` gives the data register, `WR_DATA`
stores the byte; everything else stays (42_host_registers.md R174, R179). What a read returns is held in `readData` (the
model's field, log entry 6). -/
def Obligations.DataAccessesServeTheRequest : Prop :=
  ∀ (off : BitVec 3) (s : State), 4 ≤ off.toNat →
    exec (.rdData off) s = .next { s with readData := s.data, drq := false, irq := false, intLine := false }
      ∧ ∀ v : Byte, exec (.wrData off v) s = .next { s with data := v, drq := false, irq := false, intLine := false }

/-- The unmapped accesses change nothing: a read gives some byte and uses up one draw (the model's counter, log
entry 3), a write does nothing at all (42_host_registers.md R175, R180). -/
def Obligations.UnmappedAccessesChangeNothing : Prop :=
  (∀ (off : BitVec 3) (s : State), off = 2 ∨ off = 3 →
      ∃ v : Byte, exec (.rdUnmapped off) s = .next { s with readData := v, draws := s.draws + 1 })
    ∧ (∀ (v : Byte) (s : State), exec (.wrUnmapped v) s = .next s)

/-- `WR_COMMAND` with a documented code: while idle the byte is held with no parameter yet, and the controller waits
for as many as the command takes, result and interrupt left as they were; `READ_STATUS` takes none and runs at once
(43_command_protocol.md R200, R202; the counts are 30_encoding.md R81's). -/
def Obligations.CommandByteIsAccepted : Prop :=
  (∀ (sel : BitVec 2) (row : BitVec 6 × Nat) (s : State), s.busy = false →
      row ∈ ([(0x0A, 2), (0x0B, 3), (0x0E, 2), (0x0F, 3), (0x12, 2), (0x13, 3), (0x16, 2), (0x17, 3), (0x1B, 3),
        (0x1E, 2), (0x1F, 3), (0x23, 5), (0x29, 1), (0x35, 4), (0x3A, 2), (0x3D, 1)] : List (BitVec 6 × Nat)) →
      exec (.wrCommand (sel ++ row.1)) s
        = .next { s with cmd := sel ++ row.1, busy := true, params := [], nexp := row.2, fsm := .params })
    ∧ (∀ (sel : BitVec 2) (s : State), s.busy = false →
      exec (.wrCommand (sel ++ 0x2C#6)) s = exec (.readStatus sel) s)

/-- `WR_PARAM`: outside `PARAMS` a fault; before the last parameter the byte joins the list and nothing else changes;
with the last one the command runs, as the whole command would from the idle machine (43_command_protocol.md R201,
R204). -/
def Obligations.ParameterByteIsCollected : Prop :=
  (∀ (v : Byte) (s : State), s.fsm ≠ .params → exec (.wrParam v) s = .fault .unexpectedParameter)
    ∧ (∀ (v : Byte) (s : State), s.fsm = .params → s.params.length + 1 ≠ s.nexp →
      exec (.wrParam v) s = .next { s with params := s.params ++ [v] })
    ∧ (∀ (i : Instr) (v : Byte) (s : State), s.fsm = .params → s.busy = true → s.params.length + 1 = s.nexp →
      encode i = .command (s.cmd :: (s.params ++ [v])) →
      exec (.wrParam v) s = exec i { s with busy := false })

/-- `WR_RESET` with bit 0 clear does nothing, whatever the other bits; with bit 0 set it resets the controller:
every element as 70_reset_and_hazards.md R450 lists it, the result, data and command registers, the ten internal
registers and the elements of 10_state.md R33 to R35 open (drawn, log entries 3 and 4), both drives stopped where they
are, and the rest as it was (R451; 42_host_registers.md R178). -/
def Obligations.ResetRegisterResets : Prop :=
  (∀ (v : Byte) (s : State), v.getLsbD 0 = false → exec (.wrReset v) s = .next s)
    ∧ (∀ (v : Byte) (s : State), v.getLsbD 0 = true →
      ∃ t, exec (.wrReset v) s = .next t
        ∧ t = { s with
            timer := none, cont := .none, fsm := .idle, busy := false, resultFull := false, irq := false
            intLine := false, drq := false, params := [], nexp := 0, sr := 0, nbits := 0, indexCount := 0
            deletedSeen := false, lastIndex := false, driveOut := 0x00, unload := none
            wr := { wseq := [], fifo := [], hostLeft := 0, skipDone := false, fmtDone := false }
            result := t.result, data := t.data, cmd := t.cmd, regs := t.regs, op := t.op, seek := t.seek
            cap := t.cap, draws := t.draws, drive0 := t.drive0, drive1 := t.drive1 }
        ∧ ∀ n, t.drive n = if present s.cfg n = true then (s.drive n).withRotation none else s.drive n)

/-- The machine right after power-on has every element at the value 10_state.md R50 and 70_reset_and_hazards.md R453
state for it. What the spec leaves open there (the drawn registers, the discs, the heads' tracks) is not claimed. -/
def Obligations.PowerOnIsAsStated : Prop :=
  State.reset.fsm = .idle ∧ State.reset.busy = false ∧ State.reset.resultFull = false ∧ State.reset.irq = false
    ∧ State.reset.intLine = false ∧ State.reset.drq = false ∧ State.reset.params = [] ∧ State.reset.nexp = 0
    ∧ State.reset.driveOut = 0x00 ∧ State.reset.sr = 0 ∧ State.reset.nbits = 0 ∧ State.reset.indexCount = 0
    ∧ State.reset.deletedSeen = false
    ∧ State.reset.wr = { wseq := [], fifo := [], hostLeft := 0, skipDone := false, fmtDone := false }
    ∧ State.reset.unload = none ∧ State.reset.lastIndex = false ∧ State.reset.timer = none
    ∧ State.reset.cont = .none ∧ State.reset.epoch = 0
    ∧ ∀ n, (State.reset.drive n).side = .side0 ∧ (State.reset.drive n).word = 0
        ∧ (State.reset.drive n).phase = .phase0 ∧ (State.reset.drive n).rotation = none

/-! ## Management commands -/

/-- `READ_STATUS`: after its select bits have been applied (43_command_protocol.md R206), the result register holds
the drive input port and is full, the controller is idle, and neither the interrupt nor anything else has changed
(48_management_commands.md R380, 60_exceptions.md R416). -/
def Obligations.ReadStatusGivesTheInputPort : Prop :=
  ∀ (sel : BitVec 2) (s : State), s.busy = false →
    ∃ u t, Selected sel s u ∧ exec (.readStatus sel) s = .next t ∧ t.result = u.driveIn
      ∧ t = { u with
          cmd := sel ++ 0x2C#6, params := [], nexp := 0, fsm := .idle, busy := false
          result := t.result, resultFull := true }

/-- The drive input port, bit by bit: the ready bits of both drives, and the current drive's index, write-protect and
track-0 signals, which read 0 with no drive or an absent one; the other bits read 0 (10_state.md R46, 30_encoding.md
R95, 40_environment.md R133, R135, R136). -/
def Obligations.InputPortShowsTheDrive : Prop :=
  ∀ s : State,
    (s.driveIn.getLsbD 6 = (s.cfg.present1 && (s.disc .d1).isSome && s.drive1.rotation.isSome))
    ∧ (s.driveIn.getLsbD 2 = (s.cfg.present0 && (s.disc .d0).isSome && s.drive0.rotation.isSome))
    ∧ s.driveIn.getLsbD 7 = false ∧ s.driveIn.getLsbD 5 = false ∧ s.driveIn.getLsbD 0 = false
    ∧ (∀ n, s.cur = some n → present s.cfg n = true →
      (s.driveIn.getLsbD 4 = ((s.disc n).isNone || decide ((s.drive n).word < s.cfg.indexPulseWords)))
      ∧ (s.driveIn.getLsbD 3 = (s.disc n).any Disc.writeProtect)
      ∧ (s.driveIn.getLsbD 1 = decide ((s.drive n).phys = 0)))
    ∧ ((∀ n, s.cur = some n → present s.cfg n = false) →
      s.driveIn.getLsbD 4 = false ∧ s.driveIn.getLsbD 3 = false ∧ s.driveIn.getLsbD 1 = false)

/-- `SPECIFY` loads the three registers of its group in order, with no result and no interrupt; any other group is
refused (48_management_commands.md R381, 30_encoding.md R90). -/
def Obligations.SpecifyLoadsItsGroup : Prop :=
  ∀ (sel : BitVec 2) (g v1 v2 v3 : Byte) (s : State), s.busy = false →
    (∀ regs : Regs,
      (g = 0x0D ∧ regs = { s.regs with stepRate := v1, settle := v2, headLoadUnload := v3 })
        ∨ (g = 0x10 ∧ regs = { s.regs with bad1s0 := v1, bad2s0 := v2, trackS0 := v3 })
        ∨ (g = 0x18 ∧ regs = { s.regs with bad1s1 := v1, bad2s1 := v2, trackS1 := v3 }) →
      ∃ u t, Selected sel s u ∧ exec (.specify sel g v1 v2 v3) s = .next t
        ∧ t = { u with
            cmd := sel ++ 0x35#6, params := [g, v1, v2, v3], nexp := 4, fsm := .idle, busy := false, regs := regs })
    ∧ (g ≠ 0x0D → g ≠ 0x10 → g ≠ 0x18 → exec (.specify sel g v1 v2 v3) s = .refused .specifyTarget)

/-- `WRITE_SPECIAL` writes one internal register and no other, or the whole output port after the command's own select
bits (the step line dropped); any other address is refused. No result, no interrupt (48_management_commands.md
R383). -/
def Obligations.WriteSpecialWritesOneRegister : Prop :=
  ∀ (sel : BitVec 2) (a v : Byte) (s : State), s.busy = false →
    (a ∈ ([0x10, 0x11, 0x12, 0x17, 0x18, 0x19, 0x1A] : List Byte) →
      ∃ u t, Selected sel s u ∧ exec (.writeSpecial sel a v) s = .next t
        ∧ t.regs.get a = some v ∧ (∀ b, b ≠ a → t.regs.get b = s.regs.get b)
        ∧ t = { u with
            cmd := sel ++ 0x3A#6, params := [a, v], nexp := 2, fsm := .idle, busy := false, regs := t.regs })
    ∧ (a = 0x23 →
      ∃ u w t, Selected sel s u ∧ PortWritten v u w ∧ exec (.writeSpecial sel a v) s = .next t
        ∧ t = { w with cmd := sel ++ 0x3A#6, params := [a, v], nexp := 2, fsm := .idle, busy := false })
    ∧ (a ∉ ([0x10, 0x11, 0x12, 0x17, 0x18, 0x19, 0x1A, 0x23] : List Byte) →
      exec (.writeSpecial sel a v) s = .refused .specialRegister)

/-- `READ_SPECIAL` puts an internal register, the input port or the output port into the result register, after the
command's select bits; any other address is refused. The interrupt stays as it was (48_management_commands.md R387). -/
def Obligations.ReadSpecialReadsOneRegister : Prop :=
  ∀ (sel : BitVec 2) (a : Byte) (s : State), s.busy = false →
    (a ∈ ([0x10, 0x11, 0x12, 0x17, 0x18, 0x19, 0x1A, 0x22, 0x23] : List Byte) →
      ∃ u t, Selected sel s u ∧ exec (.readSpecial sel a) s = .next t
        ∧ some t.result = (if a = 0x22 then some u.driveIn else if a = 0x23 then some u.driveOut else s.regs.get a)
        ∧ t = { u with
            cmd := sel ++ 0x3D#6, params := [a], nexp := 1, fsm := .idle, busy := false
            result := t.result, resultFull := true })
    ∧ (a ∉ ([0x10, 0x11, 0x12, 0x17, 0x18, 0x19, 0x1A, 0x22, 0x23] : List Byte) →
      exec (.readSpecial sel a) s = .refused .specialRegister)

/-! ## Drive commands at their dispatch -/

/-- A drive command whose select bits name no drive faults (43_command_protocol.md R216, 10_state.md R47). -/
def Obligations.DriveCommandNeedsADrive : Prop :=
  ∀ (i : Instr) (c : Byte) (ps : List Byte) (op : Op) (s : State),
    encode i = .command (c :: ps) → Op.ofCode (codeOf c) = some op → op.isDrive = true → s.busy = false →
    c.extractLsb' 6 2 ≠ 1 → c.extractLsb' 6 2 ≠ 2 → exec i s = .fault .noDriveSelected

/-- What a drive command refuses at its dispatch: a transfer in DMA mode (43_command_protocol.md R214); a sector or ID
count of 0, and a format with an index gap (R215). A format with both is refused for one of the two: which comes first is
the model's choice (log entry 11) and is not claimed. -/
def Obligations.DispatchRefusesModesAndOperands : Prop :=
  ∀ (i : Instr) (c : Byte) (ps : List Byte) (op : Op) (n : DriveId) (s : State),
    encode i = .command (c :: ps) → Op.ofCode (codeOf c) = some op → op.isDrive = true → s.busy = false →
    selected c = some n →
    (op.isTransfer = true → s.regs.mode.getLsbD 0 = false → exec i s = .refused .dmaModeUnmodelled)
    ∧ ((op.isTransfer = true → s.regs.mode.getLsbD 0 = true) →
      op ∈ ([.readVar, .readDelVar, .verifyVar, .writeVar, .writeDelVar] : List Op) →
      (ps.getD 2 0).toNat % 32 = 0 → exec i s = .refused .zeroCount)
    ∧ (s.regs.mode.getLsbD 0 = true → op = .readId → ps.getD 2 0 = 0 → exec i s = .refused .zeroCount)
    ∧ (s.regs.mode.getLsbD 0 = true → op = .format → (ps.getD 2 0).toNat % 32 = 0 → ps.getD 3 0 = 0 →
      exec i s = .refused .zeroCount)
    ∧ (s.regs.mode.getLsbD 0 = true → op = .format → (ps.getD 2 0).toNat % 32 ≠ 0 → ps.getD 3 0 ≠ 0 →
      exec i s = .refused .formatGap5)
    ∧ (s.regs.mode.getLsbD 0 = true → op = .format → (ps.getD 2 0).toNat % 32 = 0 → ps.getD 3 0 ≠ 0 →
      exec i s = .refused .zeroCount ∨ exec i s = .refused .formatGap5)

/-- The mechanical checks end a drive command in its dispatch: with 0x10 on a drive that is absent or holds no disc,
with 0x12 for a command that writes on a write-protected disc. The command ends in the machine its head load has left:
no head moves, and the head stays loaded, unless the command's end latches at once and unloads at once; with a
completion delay result and interrupt stay as they were (43_command_protocol.md R209, R212, R213). -/
def Obligations.MechanicalChecksEndAtDispatch : Prop :=
  ∀ (i : Instr) (c : Byte) (ps : List Byte) (op : Op) (n : DriveId) (s : State),
    encode i = .command (c :: ps) → Op.ofCode (codeOf c) = some op → op.isDrive = true → s.busy = false →
    selected c = some n → (op.isTransfer = true → s.regs.nonDma = true) → operandsAccepted op ps →
    (present s.cfg n = false ∨ s.disc n = none → ∃ t, exec i s = .next t ∧ EndedByCheck 0x10 op c ps s t)
    ∧ (present s.cfg n = true → (s.disc n).isSome = true → s.protectedDisc n = true →
      op ∈ ([.write128, .writeVar, .writeDel128, .writeDelVar, .format] : List Op) →
      ∃ t, exec i s = .next t ∧ EndedByCheck 0x12 op c ps s t)

/-- Every drive command (the four reads, the two verifies, `READ_ID`, the four writes, `FORMAT`, `SEEK`) that passes
its checks and whose target is not where the track register (or, for track 0, the drive) is already, takes its first
step in its dispatch and waits one step delay: 43_command_protocol.md R204, R206, R210 to R212, 44_seek.md R241, R247,
40_environment.md R134. The drives and the discs are those of `Started`, but for the step; nothing else changes. -/
def Obligations.DriveCommandTakesItsFirstStep : Prop :=
  ∀ (i : Instr) (c : Byte) (ps : List Byte) (op : Op) (n : DriveId) (s : State),
    encode i = .command (c :: ps) → Op.ofCode (codeOf c) = some op → op.isDrive = true →
    s.busy = false → s.timer = none → s.cfg.recalStepLimit ≠ 0 → selected c = some n → Startable op n ps s →
    needsStep n ps s →
    ∃ u t, Started op n c ps s u ∧ exec i s = .next t
      ∧ t.drive n = (u.drive n).stepped s.cfg (u.disc n) (doubleStep s.cfg n) (seeksIn n ps s)
      ∧ (∀ m, m ≠ n → t.drive m = u.drive m) ∧ t.discs = u.discsFlushedIn n
      ∧ t = { u with
          drive0 := t.drive0, drive1 := t.drive1, discs := t.discs
          seek := { u.seek with steps := u.seek.steps - 1, stepped := true }
          timer := some { expiry := s.epoch + s.regs.stepRate.toNat * s.cfg.stepUnit, seq := u.nextSeq }
          cont := .step, nextSeq := u.nextSeq + 1 }

/-- A drive command already on its track whose head was up waits the head-load time before it goes on
(44_seek.md R247, R249, R250); its track register holds the target. -/
def Obligations.DriveCommandInPlaceLoadsTheHead : Prop :=
  ∀ (i : Instr) (c : Byte) (ps : List Byte) (op : Op) (n : DriveId) (s : State),
    encode i = .command (c :: ps) → Op.ofCode (codeOf c) = some op → op.isDrive = true →
    s.busy = false → s.timer = none → selected c = some n → Startable op n ps s → ¬ needsStep n ps s →
    0 < headDelay (selOf c) s →
    ∃ u, Started op n c ps s u
      ∧ exec i s = .next { u with
          fsm := .seekSettle, regs := s.regs.setTrack n (seekTarget n ps s)
          timer := some { expiry := s.epoch + headDelay (selOf c) s, seq := u.nextSeq }, cont := .postSeek
          nextSeq := u.nextSeq + 1 }

/-- A drive command already on its track whose head was down goes on in its dispatch: `SEEK` ends with 0x00, `FORMAT`
waits for the index, every other one begins its ID search (44_seek.md R249, R251, 45_bitstream.md R274). -/
def Obligations.DriveCommandInPlaceGoesOn : Prop :=
  ∀ (i : Instr) (c : Byte) (ps : List Byte) (op : Op) (n : DriveId) (s : State),
    encode i = .command (c :: ps) → Op.ofCode (codeOf c) = some op → op.isDrive = true →
    s.busy = false → s.timer = none → selected c = some n → Startable op n ps s → ¬ needsStep n ps s →
    headDelay (selOf c) s = 0 →
    ∃ u v, Started op n c ps s u ∧ v = { u with regs := s.regs.setTrack n (seekTarget n ps s) }
      ∧ (op = .seek → ∃ t, exec i s = .next t ∧ EndsWith 0x00 v t)
      ∧ (op = .format → exec i s = .next { v with fsm := .formatWaitIndex })
      ∧ (op ≠ .seek → op ≠ .format → exec i s = .next { v with fsm := .searchId, sr := 0, indexCount := 0 })

/-- The operands a drive command takes from its parameters, form by form; the operands a form does not name stay
(43_command_protocol.md R211, 30_encoding.md R86, R87). -/
def Obligations.OperandsComeFromTheParameters : Prop :=
  ∀ (p : Nat → Byte) (o : Operands),
    (∀ op ∈ ([.read128, .readDel128, .verify128, .write128, .writeDel128] : List Op),
      operandsOf op p o = { o with reqTrack := p 0, sector := p 1, size := 128, count := 1 })
    ∧ (∀ op ∈ ([.readVar, .readDelVar, .verifyVar, .writeVar, .writeDelVar] : List Op),
      operandsOf op p o =
        { o with
          reqTrack := p 0, sector := p 1, size := 128 * 2 ^ ((p 2).toNat / 32), count := (p 2).toNat % 32 })
    ∧ operandsOf .readId p o = { o with reqTrack := p 0, count := (p 2).toNat }
    ∧ operandsOf .format p o =
        { o with
          reqTrack := p 0, gap3 := p 1, size := 128 * 2 ^ ((p 2).toNat / 32), count := (p 2).toNat % 32
          gap1 := p 4 }
    ∧ operandsOf .seek p o = { o with reqTrack := p 0 }

/-- The frame of every instruction: no bus access and no command's dispatch changes a recorded slot, takes any time,
changes a parameter or touches what the host has queued; at most a disc is flushed (20_memory.md R63,
42_host_registers.md R170, 40_environment.md R127). -/
def Obligations.InstructionsLeaveTheDiscs : Prop :=
  ∀ (i : Instr) (s t : State), exec i s = .next t →
    SameDiscs s t ∧ SameDiscBytes s t ∧ t.epoch = s.epoch ∧ t.cfg = s.cfg ∧ t.host = s.host

/-! ## Seek -/

/-- The bad-track adjustment: bad track 1 first, bad track 2 against the adjusted value, each increment modulo 256
(44_seek.md R242, 90_conflicts.md C6). -/
def Obligations.BadTracksMoveTheTarget : Prop :=
  ∀ (r : Regs) (n : DriveId) (t : Byte),
    (adjust r n t).toNat =
      (let once := if (r.bad1 n).toNat ≤ t.toNat then (t.toNat + 1) % 256 else t.toNat
       if (r.bad2 n).toNat ≤ once then (once + 1) % 256 else once)

/-- A step pulse moves the head one track, or two on a double-stepping drive, and stops at the drive's limits; the
disc is flushed first, the angular position is kept, and nothing else changes (40_environment.md R134, R137). No word
is claimed where the head leaves a track of length 0 (log entry 27). -/
def Obligations.StepPulseMovesTheHead : Prop :=
  ∀ (n : DriveId) (dirIn : Bool) (s t : State) (old new : Nat), 1 ≤ s.cfg.maxTrack → t = seekTrack n dirIn s →
    old = trackLen s.cfg (s.disc n) (s.drive n).side (s.drive n).phys →
    new = trackLen s.cfg (s.disc n) (s.drive n).side (t.drive n).phys →
    ((t.drive n).phys : Int)
        = max 0 (min ((s.cfg.maxTrack : Int) - 1)
            (((s.drive n).phys : Int) + (if dirIn then 1 else -1) * (if doubleStep s.cfg n then 2 else 1)))
    ∧ (old = new → (t.drive n).word = (s.drive n).word)
    ∧ (old ≠ new → old ≠ 0 → (t.drive n).word = (s.drive n).word * new / old)
    ∧ t.drive n = { s.drive n with phys := (t.drive n).phys, word := (t.drive n).word }
    ∧ (∀ m, m ≠ n → t.drive m = s.drive m) ∧ t.discs = s.discsFlushedIn n
    ∧ t = { s with drive0 := t.drive0, drive1 := t.drive1, discs := t.discs }

/-- What the controller's timer does for a seek (44_seek.md R247, R249 to R251). In `SEEK_STEP`: another step and its
delay; or, on the target, the track register is written and the settle or head-load delay begins, or the command goes on
at once; a recalibrate that has used its steps faults. After the delay `SEEK` ends with 0x00, `FORMAT` waits for the
index, and every other command begins its ID search with a fresh shift register and index count (45_bitstream.md
R274). -/
def Obligations.SeekTimerStepsOrFinishes : Prop :=
  (∀ (n : DriveId) (s : State) (delay : Nat), s.fsm = .seekStep → s.cont = .step → s.cur = some n → s.timer = none →
    delay = (if s.seek.newlyLoaded then s.regs.headLoadUnload.toNat % 16 * s.cfg.headLoadUnit
      else if s.seek.stepped then s.regs.settle.toNat * s.cfg.settleUnit else 0) →
    ((s.seek.steps ≠ 0 ∧ (s.seek.recal = true → (s.drive n).phys ≠ 0) →
      onTimer s = .next
        { seekTrack n s.seek.dirIn s with
          seek := { s.seek with steps := s.seek.steps - 1, stepped := true }
          timer := some { expiry := s.epoch + s.regs.stepRate.toNat * s.cfg.stepUnit, seq := s.nextSeq }
          nextSeq := s.nextSeq + 1 })
    ∧ (s.seek.recal = true → (s.drive n).phys ≠ 0 → s.seek.steps = 0 → onTimer s = .fault .recalibrateExhausted)
    ∧ ((s.seek.recal = true ∧ (s.drive n).phys = 0) ∨ (s.seek.recal = false ∧ s.seek.steps = 0) →
      ∀ r : Regs, r = s.regs.setTrack n (if s.seek.recal then 0 else s.seek.target) →
        (0 < delay → onTimer s = .next
          { s with
            regs := r, fsm := .seekSettle, cont := .postSeek
            timer := some { expiry := s.epoch + delay, seq := s.nextSeq }, nextSeq := s.nextSeq + 1 })
        ∧ (delay = 0 → onTimer s = .next (postSeek { s with regs := r })))))
  ∧ (∀ s : State, s.cont = .postSeek →
    (s.command = some .seek → ∃ t, onTimer s = .next t ∧ EndsWith 0x00 s t)
    ∧ (s.command = some .format → onTimer s = .next { s with fsm := .formatWaitIndex })
    ∧ (s.command ≠ some .seek → s.command ≠ some .format →
      onTimer s = .next { s with fsm := .searchId, sr := 0, indexCount := 0 }))

/-- A seek with `k` steps to go makes exactly `k` steps, one step delay apart, and the firing after the last of them
writes its target to the track register (44_seek.md R247, R249, 70_reset_and_hazards.md R482). -/
def Obligations.SeekEndsAfterItsSteps : Prop :=
  ∀ (k : Nat) (n : DriveId) (s : State) (a : Armed),
    s.fsm = .seekStep → s.cont = .step → s.cur = some n → s.seek.recal = false → s.seek.steps = k →
    s.timer = some a →
    ∃ u t, fireTimerTimes k s = .next u ∧ u.fsm = .seekStep ∧ u.cont = .step ∧ u.seek.steps = 0
      ∧ u.regs = s.regs ∧ SameDiscs s u
      ∧ (u.drive n).phys = steppedTimes s.cfg (doubleStep s.cfg n) s.seek.dirIn k (s.drive n).phys
      ∧ u.timer.map Armed.expiry = some (a.expiry + k * (s.regs.stepRate.toNat * s.cfg.stepUnit))
      ∧ fireTimer u = .next t ∧ t.regs = s.regs.setTrack n s.seek.target ∧ (t.drive n).phys = (u.drive n).phys

/-- A recalibrate whose step budget covers the head's distance from track 0 ends with the head on track 0 and the
track register 0, after at most that many steps, whatever the register held: it never exhausts its budget
(44_seek.md R243, R247 to R249). -/
def Obligations.RecalibrateReachesTrackZero : Prop :=
  ∀ (n : DriveId) (s : State), s.fsm = .seekStep → s.cont = .step → s.cur = some n → s.seek.recal = true →
    s.seek.dirIn = false → s.timer.isSome = true → (s.drive n).phys ≤ s.seek.steps →
    ∃ k t, k ≤ (s.drive n).phys ∧ fireTimerTimes (k + 1) s = .next t ∧ (t.drive n).phys = 0
      ∧ t.regs = s.regs.setTrack n 0 ∧ SameDiscs s t

/-! ## Codec -/

/-- A field is good exactly if feeding its two CRC bytes, the high one first, through the CRC leaves 0, and the
controller calls it good exactly then (41_codec.md R153). -/
def Obligations.GoodFieldsLeaveNoResidue : Prop :=
  (∀ (crc : Half) (hi lo : Byte), crcBytes crc [hi, lo] = 0 ↔ crc = hi ++ lo)
    ∧ (∀ c : Capture, idGood c = true ↔ crcBytes c.crc [c.idb.getD 4 0, c.idb.getD 5 0] = 0)
    ∧ (∀ c : Capture, dataGood c = true ↔ crcBytes c.crc [c.crcb.getD 0 0, c.crcb.getD 1 0] = 0)

/-- FM encoding puts clock and data bit `i` into positions 2 and 0 of nibble `i` and nothing elsewhere (41_codec.md
R154); decoding reads them back and flags exactly the pulses at odd slots (R155); the two are inverse. -/
def Obligations.FmCodecRoundTrips : Prop :=
  (∀ (c d : Byte) (i : Nat), i < 8 →
      (fmEncode c d).getLsbD (4 * i + 2) = c.getLsbD i ∧ (fmEncode c d).getLsbD (4 * i) = d.getLsbD i
        ∧ (fmEncode c d).getLsbD (4 * i + 1) = false ∧ (fmEncode c d).getLsbD (4 * i + 3) = false)
    ∧ (∀ (w : Slots) (i : Nat), i < 8 →
      (fmDecode w).1.getLsbD i = w.getLsbD (4 * i + 2) ∧ (fmDecode w).2.1.getLsbD i = w.getLsbD (4 * i))
    ∧ (∀ w : Slots, (fmDecode w).2.2 = true ↔ ∃ j, j < 16 ∧ w.getLsbD (2 * j + 1) = true)
    ∧ (∀ c d : Byte, fmDecode (fmEncode c d) = (c, d, false))

/-! ## Bitstream -/

/-- Each slot is shifted in, and the search that is on looks at the last 32 (45_bitstream.md R273). The ID search leaves
only at exactly the ID mark, with the CRC of the mark begun (R275); the data search at a data or a deleted-data mark,
with its CRC begun, or when its window has passed (R279, R282); the skip of gap 2 ends after its byte times
(47_write_commands.md R343); the other states that read nothing only shift. -/
def Obligations.SearchesFindTheirMarks : Prop :=
  ∀ (s : State) (b : Bool) (w : Slots), w = (s.sr <<< 1 ||| (if b then 1 else 0)) →
    (s.fsm = .searchId →
      onSlot s b =
        if w = 0x55111554 then
          { s with
            sr := w, fsm := .inId, nbits := 0, cap := { s.cap with crc := 0xEF21, clkErr := false, idb := [] } }
        else { s with sr := w })
    ∧ (s.fsm = .searchData → ∀ u : State, u = { s with sr := w, nbits := s.nbits + 1 } →
      (w = 0x55111455 → onSlot s b =
        { u with
          fsm := .inData, nbits := 0
          cap := { s.cap with crc := 0xBF84, clkErr := false, nbytes := 0, crcb := [], deleted := false } })
      ∧ (w = 0x55111444 → onSlot s b =
        { u with
          fsm := .inData, nbits := 0
          cap := { s.cap with crc := 0x8FE7, clkErr := false, nbytes := 0, crcb := [], deleted := true } })
      ∧ (w ≠ 0x55111455 → w ≠ 0x55111444 →
        (s.nbits + 1 < s.cfg.dataMarkWindow → onSlot s b = u)
        ∧ (s.cfg.dataMarkWindow ≤ s.nbits + 1 → PassedOver u (onSlot s b))))
    ∧ (s.fsm = .writeSkipGap2 → onSlot s b =
      { s with
        sr := w, nbits := s.nbits + 1
        wr := { s.wr with skipDone := s.wr.skipDone || decide (s.nbits + 1 = s.cfg.gap2SkipBytes * 32) } })
    ∧ (s.fsm ∈ ([.idle, .params, .seekStep, .seekSettle, .formatWaitIndex, .completing] : List Fsm) →
      onSlot s b = { s with sr := w })

/-- A chunk reaches the controller only from the current drive. The index signal is sampled once, before the slots, and
its rising edge taken; then a state that writes records a chunk, and any other reads the slots, a skipped gap 2 starting
the write at the chunk's end (45_bitstream.md R271). With no disc there is no edge, and an unload countdown goes on
(R272, 70_reset_and_hazards.md R467): that R271's sample does not make one there is the model's reading of the two
(log entry 28). -/
def Obligations.PulsesReachTheController : Prop :=
  ∀ (n : DriveId) (w : Slots) (k : Nat) (s : State),
    (s.cur ≠ some n → onPulses n w k s = .next s)
    ∧ (s.cur = some n → ∀ u v r : State, u = { s with lastIndex := s.index n } →
      v = (if (s.disc n).isSome = true ∧ s.index n = true ∧ s.lastIndex = false then onIndexEdge u else u) →
      r = onSlots w k v →
      (v.fsm.writes = true → onPulses n w k s = emit n k v)
      ∧ (v.fsm.writes = false → r.fsm = .writeSkipGap2 → r.wr.skipDone = true →
        onPulses n w k s = .next (startWrite r))
      ∧ (v.fsm.writes = false → r.fsm ≠ .writeSkipGap2 ∨ r.wr.skipDone = false → onPulses n w k s = .next r))
    ∧ (s.disc n = none → s.fsm = .idle ∨ s.fsm = .params →
      ∃ t, onPulses n w k s = .next t ∧ t.unload = s.unload ∧ t.driveOut = s.driveOut)

/-- A drive whose rotation timer fires arms it again one period on, delivers the word under its head (a nonzero one
where the track is unformatted) to the controller, and then moves the head on by that word, from the last one to the
first with a flush of the disc; over a track of no words it stays (40_environment.md R131, R132, log entry 22). A stop
of the controller is a stop of the drive. -/
def Obligations.RotationDeliversAndTurns : Prop :=
  ∀ (n : DriveId) (s : State) (len : Nat),
    len = trackLen s.cfg (s.disc n) (s.drive n).side (s.drive n).phys →
    (len = 0 → onRotation n s = .next (s.reschedule (.rotation n) s.cfg.pulsePeriod))
    ∧ (len ≠ 0 → ∃ w v, Delivers n s w v
      ∧ (∀ u, onPulses n w 32 (v.reschedule (.rotation n) s.cfg.pulsePeriod) = .next u →
        ∃ t, onRotation n s = .next t
          ∧ (len ≤ (u.drive n).word + 1 → t.drive n = { u.drive n with word := 0 } ∧ t.discs = u.discsFlushedIn n)
          ∧ ((u.drive n).word + 1 < len →
            t.drive n = { u.drive n with word := (u.drive n).word + 1 } ∧ t.discs = u.discs)
          ∧ (∀ m, m ≠ n → t.drive m = u.drive m)
          ∧ t = { u with drive0 := t.drive0, drive1 := t.drive1, discs := t.discs })
      ∧ ((∀ u, onPulses n w 32 (v.reschedule (.rotation n) s.cfg.pulsePeriod) ≠ .next u) →
        onRotation n s = onPulses n w 32 (v.reschedule (.rotation n) s.cfg.pulsePeriod)))

/-- A field is read slot by slot, wherever in a chunk it begins: each slot is shifted in, 31 of 32 are only counted,
and the 32nd makes a byte of the shift register, whatever pulses it holds off the grid: the clock is checked against
0xFF, and the byte taken, an ID byte in `IN_ID` and a data byte in `IN_DATA`. So a chunk that starts at a byte
boundary is one byte (45_bitstream.md R271, R273, R276, R277, R280, 41_codec.md R155, R156). -/
def Obligations.FieldSlotsMakeBytes : Prop :=
  (∀ (s : State) (b : Bool) (w : Slots), w = (s.sr <<< 1 ||| (if b then 1 else 0)) →
    (s.fsm = .inId ∨ s.fsm = .inData → s.nbits + 1 < 32 → onSlot s b = { s with sr := w, nbits := s.nbits + 1 })
    ∧ (32 ≤ s.nbits + 1 → ∀ u : State,
      u = { s with
        sr := w, nbits := 0, cap := { s.cap with clkErr := s.cap.clkErr || (fmDecode w).1 != 0xFF } } →
      (s.fsm = .inId → onSlot s b = idByte (fmDecode w).2.1 u)
      ∧ (s.fsm = .inData → onSlot s b = dataByte (fmDecode w).2.1 u)))
  ∧ (∀ (c d : Byte) (s : State), s.nbits = 0 →
    (s.fsm = .inId →
      onSlots (fmEncode c d) 32 s =
        idByte d { s with sr := fmEncode c d, cap := { s.cap with clkErr := s.cap.clkErr || c != 0xFF } })
    ∧ (s.fsm = .inData →
      onSlots (fmEncode c d) 32 s =
        dataByte d { s with sr := fmEncode c d, cap := { s.cap with clkErr := s.cap.clkErr || c != 0xFF } }))

/-- The bytes of a data field and of an ID field, one by one (45_bitstream.md R276, R280, R285, 46_read_commands.md
R301). A sector byte joins the CRC; a read command offers it to the host, raising a data request, unless the last one is
still pending, which ends the command with late DMA and leaves the data register alone; a verify command offers
nothing. The first byte after the sector is kept, and the second ends the field. The first four bytes of an ID join
the CRC, and `READ_ID` offers them the same way; the fifth is kept, and the sixth ends the field. -/
def Obligations.BytesAreOfferedOrLate : Prop :=
  (∀ (d : Byte) (s : State), s.cap.nbytes < s.op.size →
    ∀ u : State, u = { s with cap := { s.cap with nbytes := s.cap.nbytes + 1, crc := crcByte s.cap.crc d } } →
      (s.isTransfer = true → s.drq = true → EndsWith (0x0A ||| flagOf s) u (dataByte d s))
      ∧ (s.isTransfer = true → s.drq = false →
        dataByte d s = { u with data := d, drq := true, irq := true, intLine := true })
      ∧ (s.isTransfer = false → dataByte d s = u))
  ∧ (∀ (d : Byte) (s u : State),
    u = { s with cap := { s.cap with nbytes := s.cap.nbytes + 1, crcb := s.cap.crcb ++ [d] } } →
      (s.cap.nbytes = s.op.size → dataByte d s = u) ∧ (s.cap.nbytes = s.op.size + 1 → dataByte d s = endData u))
  ∧ (∀ (d : Byte) (s : State), s.cap.idb.length < 4 →
    ∀ u : State, u = { s with cap := { s.cap with idb := s.cap.idb ++ [d], crc := crcByte s.cap.crc d } } →
      (s.command = some .readId → s.drq = true → EndsWith 0x0A u (idByte d s))
      ∧ (s.command = some .readId → s.drq = false →
        idByte d s = { u with data := d, drq := true, irq := true, intLine := true })
      ∧ (s.command ≠ some .readId → idByte d s = u))
  ∧ (∀ (d : Byte) (s u : State), u = { s with cap := { s.cap with idb := s.cap.idb ++ [d] } } →
      (s.cap.idb.length = 4 → idByte d s = u) ∧ (s.cap.idb.length = 5 → idByte d s = endId u))

/-- The end of an ID field (45_bitstream.md R278). `READ_ID`: late DMA, clock error and CRC error end it, in this
order; else the ID is counted and the last one ends the command. Any other command: a header with a bad clock or of
another track or sector is passed over (R282); a CRC error counts for a matching header, or for any where the parameter says
so; a good match leads to the data field or, for a write, to the gap. -/
def Obligations.IdFieldEnds : Prop :=
  ∀ s : State, ∀ good hit : Bool, good = decide (s.cap.crc = s.cap.idb.getD 4 0 ++ s.cap.idb.getD 5 0) →
    hit = (decide (s.cap.idb.getD 0 0 = s.op.reqTrack) && decide (s.cap.idb.getD 2 0 = s.op.sector)) →
    (s.command = some .readId →
      (s.drq = true → EndsWith 0x0A s (endId s))
      ∧ (s.drq = false → s.cap.clkErr = true → EndsWith 0x08 s (endId s))
      ∧ (s.drq = false → s.cap.clkErr = false → good = false → EndsWith 0x0C s (endId s))
      ∧ (s.drq = false → s.cap.clkErr = false → good = true →
        ∀ u : State, u = { s with op := { s.op with count := s.op.count - 1 } } →
          (u.op.count = 0 → EndsWith 0x00 u (endId s))
          ∧ (u.op.count ≠ 0 → endId s = { u with fsm := .searchId, sr := 0, indexCount := 0 })))
    ∧ (s.command ≠ some .readId →
      (s.cap.clkErr = true → PassedOver s (endId s))
      ∧ (s.cap.clkErr = false → good = false → hit = true ∨ s.cfg.idCrcAnyHeader = true →
        EndsWith (0x0C ||| flagOf s) s (endId s))
      ∧ (s.cap.clkErr = false → good = true ∨ s.cfg.idCrcAnyHeader = false → hit = false → PassedOver s (endId s))
      ∧ (s.cap.clkErr = false → good = true → hit = true → s.inWriteFamily = true →
        endId s = { s with fsm := .writeSkipGap2, nbits := 0, wr := { s.wr with skipDone := false } })
      ∧ (s.cap.clkErr = false → good = true → hit = true → s.inWriteFamily = false →
        endId s = { s with fsm := .searchData, nbits := 0, sr := 0 }))

/-- The end of a data field: late DMA, clock error and data CRC error end the command, tried in this order; a deleted
sector ends `READ_128` and `READ_VAR`; else the next sector is sought, or the command ends. A deleted mark read sets
the flag on every code from then on (46_read_commands.md R304 to R306, 60_exceptions.md R411). -/
def Obligations.DataFieldEnds : Prop :=
  ∀ s u : State, u = { s with deletedSeen := s.deletedSeen || s.cap.deleted } →
    ∀ good : Bool, good = decide (s.cap.crc = s.cap.crcb.getD 0 0 ++ s.cap.crcb.getD 1 0) →
    ((s.isTransfer && s.drq) = true → EndsWith (0x0A ||| flagOf u) u (endData s))
    ∧ ((s.isTransfer && s.drq) = false → s.cap.clkErr = true → EndsWith (0x08 ||| flagOf u) u (endData s))
    ∧ ((s.isTransfer && s.drq) = false → s.cap.clkErr = false → good = false →
      EndsWith (0x0E ||| flagOf u) u (endData s))
    ∧ ((s.isTransfer && s.drq) = false → s.cap.clkErr = false → good = true →
      (s.cap.deleted = true → s.command = some .read128 ∨ s.command = some .readVar →
        EndsWith (0x00 ||| flagOf u) u (endData s))
      ∧ (s.cap.deleted = false ∨ (s.command ≠ some .read128 ∧ s.command ≠ some .readVar) →
        ∀ v : State, v = { u with op := { u.op with count := u.op.count - 1 } } →
          (v.op.count = 0 → EndsWith (0x00 ||| flagOf u) v (endData s))
          ∧ (v.op.count ≠ 0 →
            endData s =
              { v with
                op := { v.op with sector := v.op.sector + 1 }, fsm := .searchId, sr := 0, indexCount := 0 })))

/-- What an index edge does, state by state (45_bitstream.md R272, R282, 60_exceptions.md R414, R415,
47_write_commands.md R361, R363): it counts down to the head's unloading while no command runs, counts towards
`sector not found` during a search, starts a format that waits, and ends one that has reached its last gap. -/
def Obligations.IndexEdgesCount : Prop :=
  ∀ s : State,
    (s.fsm = .idle ∨ s.fsm = .params →
      (s.unload = none → onIndexEdge s = s)
      ∧ (∀ k, s.unload = some (k + 2) → onIndexEdge s = { s with unload := some (k + 1) })
      ∧ (s.unload = some 1 → ∃ u, u = { s with unload := none } ∧ PortWritten (s.driveOut &&& 0xF7) u (onIndexEdge s)))
    ∧ (s.fsm = .searchId → ∀ u : State, u = { s with indexCount := s.indexCount + 1 } →
      (s.cfg.idSearchLimit ≤ s.indexCount + 1 → EndsWith (0x18 ||| flagOf s) u (onIndexEdge s))
      ∧ (s.indexCount + 1 < s.cfg.idSearchLimit → onIndexEdge s = u))
    ∧ (s.fsm = .inId ∨ s.fsm = .searchData → onIndexEdge s = { s with indexCount := s.indexCount + 1 })
    ∧ (s.fsm = .formatWaitIndex →
      (onIndexEdge s).fsm = .formatWrite ∧ (onIndexEdge s).drq = true ∧ (onIndexEdge s).irq = true
        ∧ (onIndexEdge s).writeGate = true ∧ (onIndexEdge s).wr.hostLeft = 4 * s.op.count
        ∧ (onIndexEdge s).wr.fifo = [] ∧ (onIndexEdge s).wr.fmtDone = false
        ∧ (onIndexEdge s).wr.wseq = formatSequence s.op)
    ∧ (s.fsm = .formatWrite → (s.wr.fmtDone = true → EndsWith (flagOf s) s (onIndexEdge s))
      ∧ (s.wr.fmtDone = false → onIndexEdge s = s))
    ∧ (s.fsm = .seekStep ∨ s.fsm = .seekSettle ∨ s.fsm = .inData ∨ s.fsm = .writeSkipGap2 ∨ s.fsm = .writeData
        ∨ s.fsm = .completing → onIndexEdge s = s)

/-! ## Recording -/

/-- In a write state with nothing queued, a chunk records exactly the next item, as its FM word, on a well-formed track
at the position the drive has just delivered, with no byte elsewhere changed; the item leaves the sequence (the last
gap of a format stays), the CRC follows it, and a host byte is taken from the data register and the next one asked for
while any is left (47_write_commands.md R341, R342, R346, R347, 40_environment.md R126, R138, 20_memory.md R72). The last
item of a data field ends it: the gate is off, and the next sector is sought, or the command ends with 0x00, with the
flag of R411 that no write command has (47_write_commands.md R345, 46_read_commands.md R306, 60_exceptions.md R411). -/
def Obligations.EmitRecordsOneItem : Prop :=
  ∀ (n : DriveId) (s : State) (it : WriteItem) (rest : List WriteItem) (k : Nat) (disc : Disc) (trk : Track),
    s.wr.fifo = [] → s.wr.wseq = it :: rest → (it = .host → s.drq = false) →
    (s.drive n).disc = some k → s.discs[k]? = some disc → disc.writeProtect = false →
    (disc.dirty = none ∨ disc.dirty = some ((s.drive n).side, (s.drive n).phys)) →
    disc.track (s.drive n).side (s.drive n).phys = some trk → trk.wf = true →
    (s.drive n).word < trk.length → (s.drive n).phase = .phase0 →
    ∀ asks : Bool, asks = (decide (it = .host) && decide (1 < s.wr.hostLeft)) →
    ∃ (u t : State) (written : Disc), emit n 32 s = .next t
      ∧ (∀ j, j < 4 →
        t.discByte k (s.drive n).side (s.drive n).phys (4 * (s.drive n).word + j)
          = (fmEncode (itemByte it s).1 (itemByte it s).2).extractLsb' (8 * (3 - j)) 8)
      ∧ (∀ m sd phys a,
        ¬ (m = k ∧ sd = (s.drive n).side ∧ phys = (s.drive n).phys
            ∧ 4 * (s.drive n).word ≤ a ∧ a < 4 * (s.drive n).word + 4) →
        t.discByte m sd phys a = s.discByte m sd phys a)
      ∧ SameDiscBytes u t
      ∧ written.writeProtect = false ∧ written.dirty = some ((s.drive n).side, (s.drive n).phys)
      ∧ (∀ sd, (written.side sd).map Track.length = (disc.side sd).map Track.length)
      ∧ u = { s with
          discs := s.discs.set k written
          wr := { s.wr with
            wseq := if it = .gap4 then it :: rest else rest, fifo := []
            hostLeft := if it = .host then s.wr.hostLeft - 1 else s.wr.hostLeft
            fmtDone := s.wr.fmtDone || decide (it = .gap4) }
          cap := { s.cap with crc := itemCrc it s }
          drq := s.drq || asks, irq := s.irq || asks, intLine := s.intLine || asks }
      ∧ (s.fsm ≠ .writeData ∨ u.wr.wseq ≠ [] → t = u)
      ∧ (s.fsm = .writeData → u.wr.wseq = [] →
        ∃ g v, PortWritten (s.driveOut &&& 0xFE) u g ∧ v = { g with op := { s.op with count := s.op.count - 1 } }
          ∧ (v.op.count = 0 → EndsWith (0x00 ||| flagOf s) v t)
          ∧ (v.op.count ≠ 0 →
            t = { v with
              op := { v.op with sector := s.op.sector + 1 }, fsm := .searchId, sr := 0, indexCount := 0 }))

/-- A host byte that is still being waited for when its chunk comes ends the command with late DMA, and nothing is
written in that chunk; the item is gone from the sequence (47_write_commands.md R346, R347). -/
def Obligations.LateHostByteWritesNothing : Prop :=
  ∀ (n : DriveId) (s : State) (rest : List WriteItem), s.inReadFamily = false →
    s.wr.fifo = [] → s.wr.wseq = .host :: rest → s.drq = true →
    ∃ t, emit n 32 s = .next t ∧ EndsWith 0x0A { s with wr := { s.wr with wseq := rest } } t ∧ SameDiscBytes s t
      ∧ t.wr.hostLeft = s.wr.hostLeft

/-- The layout a write and a format record, item by item. A write: six sync bytes, the mark, the host's bytes, the CRC
and one gap byte, in `size + 10` byte times (47_write_commands.md R344). A format: gap 1, for each sector the ID field,
gap 2, the data field of 0xE5 and gap 3, in `7 + 17 + (size + 3) + (gap3 + 6)` byte times, and the last gap (R362). Each
starts with the gate on and its first byte asked for (R344, R361). -/
def Obligations.RecordedLayoutIsAsStated : Prop :=
  (∀ s : State, ∃ t, startWrite s = t ∧ t.fsm = .writeData ∧ t.writeGate = true ∧ t.drq = true ∧ t.irq = true
      ∧ t.wr.hostLeft = s.op.size ∧ t.wr.fifo = [] ∧ t.wr.fmtDone = false ∧ t.wr.wseq.length = s.op.size + 10
      ∧ t.wr.wseq =
        List.replicate 6 (.lit 0xFF 0x00)
          ++ [.mark (if s.command = some .writeDel128 ∨ s.command = some .writeDelVar then 0xF8 else 0xFB)]
          ++ List.replicate s.op.size .host ++ [.crcHi, .crcLo, .lit 0xFF 0xFF])
    ∧ (∀ s : State, ∃ t, startFormat s = t ∧ t.fsm = .formatWrite ∧ t.writeGate = true ∧ t.drq = true ∧ t.irq = true
      ∧ t.wr.hostLeft = 4 * s.op.count ∧ t.wr.fifo = [] ∧ t.wr.fmtDone = false ∧ t.wr.wseq = formatSequence s.op)
    ∧ (∀ (o : Operands) (sector : List WriteItem),
      sector = [.mark 0xFE] ++ List.replicate 4 .host ++ [.crcHi, .crcLo]
        ++ List.replicate 11 (.lit 0xFF 0xFF) ++ List.replicate 6 (.lit 0xFF 0x00)
        ++ [.mark 0xFB] ++ List.replicate o.size (.fill 0xE5) ++ [.crcHi, .crcLo]
        ++ List.replicate o.gap3.toNat (.lit 0xFF 0xFF) ++ List.replicate 6 (.lit 0xFF 0x00) →
      formatSequence o =
        List.replicate o.gap1.toNat (.lit 0xFF 0xFF) ++ List.replicate 6 (.lit 0xFF 0x00)
          ++ (List.replicate o.count sector).flatten ++ [.gap4]
      ∧ (formatSequence o).length
        = o.gap1.toNat + 6 + o.count * (7 + 17 + (o.size + 3) + (o.gap3.toNat + 6)) + 1
      ∧ (formatSequence o).count .host = 4 * o.count ∧ (formatSequence o).count (.mark 0xFE) = o.count
      ∧ (formatSequence o).count (.mark 0xFB) = o.count ∧ (formatSequence o).count (.fill 0xE5) = o.count * o.size)

/-- The machine writes a disc nowhere but under the head of the current, spinning drive, at the word being delivered,
on a disc that is not protected, and only while it records (or begins to at this chunk's index edge): no instruction,
no seek, no side change, no change of disc and no other drive's chunk changes a recorded slot (20_memory.md R63,
47_write_commands.md R340, 40_environment.md R138). Only the building of a disc does, and it is set aside. -/
def Obligations.StepWritesOnlyUnderTheHead : Prop :=
  ∀ s t : State, s.LinesInv → step s = .next t → (∀ disc rest, s.host ≠ .newDisc disc :: rest) →
    ∀ k sd phys a, t.discByte k sd phys a ≠ s.discByte k sd phys a →
      ∃ n, s.cur = some n ∧ (s.drive n).disc = some k ∧ (s.drive n).spinning = true
        ∧ (s.fsm.writes = true ∨ s.fsm = .formatWaitIndex)
        ∧ s.protectedDisc n = false ∧ sd = (s.drive n).side ∧ phys = (s.drive n).phys
        ∧ 4 * (s.drive n).word + (s.drive n).phase.bytes ≤ a
        ∧ a < 4 * (s.drive n).word + (s.drive n).phase.bytes + 4

/-! ## Completion -/

/-- A drive command ends as 60_exceptions.md R411 to R413 say, with the deleted-data flag only for the read family:
the result is latched at once, or after the completion delay by the timer, which latches the code that waits for it.
When the result is latched at once the status byte reads 0x18, and the head then unloads as R414 says: never, at once,
or after the count of index edges. -/
def Obligations.CompletionLatchesTheResult : Prop :=
  (∀ (code : Byte) (s : State),
    EndsWith (code ||| flagOf s) s (complete code s)
    ∧ (s.cfg.completionDelay = 0 →
      (complete code s).status = 0x18
      ∧ (s.regs.headLoadUnload.toNat / 16 = 15 →
        (complete code s).unload = none ∧ (complete code s).headLoaded = s.headLoaded)
      ∧ (s.regs.headLoadUnload.toNat / 16 = 0 →
        (complete code s).unload = none ∧ (complete code s).headLoaded = false)
      ∧ (s.regs.headLoadUnload.toNat / 16 ≠ 15 → s.regs.headLoadUnload.toNat / 16 ≠ 0 →
        (complete code s).unload = some (s.regs.headLoadUnload.toNat / 16)
          ∧ (complete code s).headLoaded = s.headLoaded)))
  ∧ ∀ (code : Byte) (s : State), s.cont = .latch code →
    ∃ t, onTimer s = .next t ∧ Latched code s t ∧ t.status = 0x18

/-- Every result a running drive command ends with is one of those its class may have: whatever step ends it, from
any state the two invariants allow (60_exceptions.md R410, R420, R421). -/
def Obligations.ResultsAreThoseOfTheClass : Prop :=
  ∀ (s t : State) (op : Op), s.SequenceInv → s.PhaseInv → step s = .next t →
    s.busy = true → t.busy = false → t.resultFull = true → t.command = some op → op.isDrive = true →
    t.result ∈ possibleResults op

/-- The interrupt line rises only for a data request or a completion: after a step that raises it, a request is
pending, or a result stands and no command runs (60_exceptions.md R423). -/
def Obligations.InterruptRisesOnlyWithACause : Prop :=
  ∀ s t : State, step s = .next t → s.irq = false → t.irq = true →
    t.drq = true ∨ (t.resultFull = true ∧ t.busy = false)

/-! ## Time -/

/-- The scheduler. A task is armed for its delay from now, next in the order of scheduling; scheduling an armed one
faults, rescheduling never does, and a cancelled one is not armed (40_environment.md R122, R123). The task that fires
next is armed, and no armed task comes before it: by expiry, and for equal expiries by the order of scheduling; there is
none, and no time until it, only when nothing is armed (R124). -/
def Obligations.NextTaskIsTheEarliest : Prop :=
  (∀ (task : Task) (d : Nat) (s t : State), t = s.reschedule task d →
    (s.task task ≠ none → s.schedule task d = .fault .doubleSchedule)
    ∧ (s.task task = none → s.schedule task d = .next t)
    ∧ t.task task = some { expiry := s.epoch + d, seq := s.nextSeq } ∧ t.nextSeq = s.nextSeq + 1
    ∧ (s.cancel task).task task = none
    ∧ ∀ other, other ≠ task → t.task other = s.task other ∧ (s.cancel task).task other = s.task other)
  ∧ (∀ s : State,
    (s.nextTask = none ↔ ∀ task, s.task task = none) ∧ (s.ticksUntilNextTask = none ↔ ∀ task, s.task task = none)
    ∧ ∀ (task : Task) (a : Armed), s.nextTask = some (task, a) →
      s.task task = some a ∧ s.ticksUntilNextTask = some (a.expiry - s.epoch)
      ∧ ∀ (other : Task) (b : Armed), s.task other = some b →
        a.expiry < b.expiry ∨ (a.expiry = b.expiry ∧ a.seq ≤ b.seq))

/-- While the host advances time, a step fires the task that comes next, if it is due within the ticks, and leaves
the rest of them to come; with none due the epoch moves to their end and the action leaves the queue. So each step
leaves the sum of the epoch and the ticks to come as it was, until they are used up, at exactly the epoch before plus
the ticks. A task fires at its expiry, disarmed, and its callback runs: the controller's timer or a drive's rotation
(40_environment.md R124). That an advance fires one event a step and waits in the queue with its remaining ticks is the
model's choice (log entry 7; R142 calls it one atomic step). -/
def Obligations.AdvanceFiresTheDueTaskAndEndsOnItsTick : Prop :=
  (∀ (s : State) (ticks : Nat) (rest : List HostAction), s.host = .advance ticks :: rest →
    (∀ (task : Task) (a : Armed), s.nextTask = some (task, a) → a.expiry ≤ s.epoch + ticks →
      step s = fire task a { s with host := .advance (s.epoch + ticks - a.expiry) :: rest })
    ∧ ((∀ (task : Task) (a : Armed), s.nextTask = some (task, a) → s.epoch + ticks < a.expiry) →
      step s = .next { s with epoch := s.epoch + ticks, host := rest })
    ∧ ∀ t : State, step s = .next t →
      (t.host = rest ∧ t.epoch = s.epoch + ticks)
      ∨ ∃ left, t.host = .advance left :: rest ∧ t.epoch + left = s.epoch + ticks)
  ∧ ∀ (a : Armed) (s : State),
    fire .timer a s = onTimer (State.cancel .timer { s with epoch := a.expiry })
    ∧ ∀ n : DriveId, fire (.rotation n) a s = onRotation n (State.cancel (.rotation n) { s with epoch := a.expiry })

/-- The faults the spec calls unreachable do not happen: no task is scheduled twice and no second track of a disc is
made dirty, in any step from a state the invariants allow (60_exceptions.md R432, 20_memory.md R77). That a host which
puts one disc into both drives, or loads one with unflushed writes, leaves `FlushInv` is the model's reading
(log entry 18). -/
def Obligations.InternalFaultsAreUnreachable : Prop :=
  ∀ s : State, s.SequenceInv → s.FlushInv → NoInternalFault (step s)

/-! ## Invariants -/

/-- Every step keeps the controller's sequencing: busy outside `IDLE`, the line equal to `irq`, the step line never
stored, the timer armed exactly in its three states and for what they wait for, the gate on while it writes, a drive
selected while a drive command runs. -/
def Obligations.StepKeepsTheSequencing : Prop :=
  ∀ s t : State, s.SequenceInv → step s = .next t → t.SequenceInv

/-- Every step keeps a drive command in its own phases, its waiting result one it may end with, and a data request to
the time a drive command runs. -/
def Obligations.StepKeepsThePhase : Prop :=
  ∀ s t : State, s.SequenceInv → s.PhaseInv → step s = .next t → t.PhaseInv

/-- Every step keeps the drives following the output port's lines. -/
def Obligations.StepKeepsTheLines : Prop :=
  ∀ s t : State, s.LinesInv → step s = .next t → t.LinesInv

/-- Every step keeps the discs well formed, their recorded slots in canonical form, and the drives' references to discs
there are; and, unless the host loads a disc that is not flushed or is in the other drive (log entry 18), only the track
under the head waiting for a flush (20_memory.md R77). The host's own disc changes do exactly what they name: a disc
built is one more disc (what is no disc is refused, log entry 10), a disc loaded or removed changes a drive's reference
and nothing else of the drive, its head, its side and its rotation included (40_environment.md R129), and a
write-protect flag is one disc's; while a drive command runs a loading, a removal and a flag are refused (R142, R143 d);
a number no disc has is refused (log entry 18). -/
def Obligations.StepKeepsTheDiscs : Prop :=
  (∀ s t : State, s.DiscInv → step s = .next t →
    t.DiscInv ∧ (s.FlushInv → s.loadsFlushedDisc → t.FlushInv))
  ∧ ∀ (s : State) (rest : List HostAction),
    (∀ disc : Disc, s.host = .newDisc disc :: rest →
      (disc.wf = true → disc.fits s.cfg = true →
        step s = .next { s with host := rest, discs := s.discs ++ [disc] })
      ∧ (disc.wf = false → step s = .refused .malformedDisc)
      ∧ (disc.wf = true → disc.fits s.cfg = false → step s = .refused .trackTooShort))
    ∧ (∀ (n : DriveId) (disc : Option Nat), s.host = .setDisc n disc :: rest →
      (s.fsm.running = true → step s = .refused .discChange)
      ∧ (s.fsm.running = false → (∀ k, disc = some k → k < s.discs.length) →
        ∃ t, step s = .next t ∧ t.drive n = { s.drive n with disc := disc } ∧ (∀ m, m ≠ n → t.drive m = s.drive m)
          ∧ t = { s with host := rest, drive0 := t.drive0, drive1 := t.drive1 })
      ∧ (s.fsm.running = false → (∃ k, disc = some k ∧ s.discs.length ≤ k) → step s = .refused .noSuchDisc))
    ∧ ∀ (k : Nat) (on : Bool), s.host = .setWriteProtect k on :: rest →
      (s.fsm.running = true → step s = .refused .discChange)
      ∧ (s.fsm.running = false → k < s.discs.length →
        ∃ t, step s = .next t ∧ t.discs[k]? = (s.discs[k]?).map (fun d => { d with writeProtect := on })
          ∧ (∀ m, m ≠ k → t.discs[m]? = s.discs[m]?) ∧ t = { s with host := rest, discs := t.discs })
      ∧ (s.fsm.running = false → s.discs.length ≤ k → step s = .refused .noSuchDisc)

/-- Every step keeps every armed task in the future, and time never runs back. -/
def Obligations.StepKeepsTimeInOrder : Prop :=
  ∀ s t : State, s.TimeInv → step s = .next t → t.TimeInv ∧ s.epoch ≤ t.epoch

/-- Every step keeps the parameters, the slot count, the operands, the steps of a seek, the bytes of a field while it is
captured, the queue of slots, the unload countdown and the heads' tracks within the ranges 10_state.md gives them (R26,
R32 to R35, R38, R39, R55), and no step changes a parameter of 00_scope.md R9. -/
def Obligations.StepKeepsTheRanges : Prop :=
  ∀ s t : State, s.SequenceInv → s.RangeInv → step s = .next t → t.RangeInv ∧ t.cfg = s.cfg

/-- The machine after reset meets every invariant, and its parameters keep their bounds. The bounds, `DiscInv`,
`FlushInv` and the range of the heads' tracks rest on the parameter values, the empty drives and the heads on track 0,
which are the model's choices (log entry 2); the ranges of what a reset leaves unspecified rest on its bounded draws
(log entry 4). -/
def Obligations.ResetMeetsTheInvariants : Prop :=
  State.reset.SequenceInv ∧ State.reset.PhaseInv ∧ State.reset.LinesInv ∧ State.reset.DiscInv ∧ State.reset.FlushInv
    ∧ State.reset.TimeInv ∧ State.reset.RangeInv ∧ State.reset.cfg.wf = true
end

