-- ==== Sys2Proof/Laws/State.lean ====
section
/-! SUPPORT. The small lemmas of the state's updates: what each of the named record updates leaves in every field. -/

namespace Sys2Proof.Machine

/-! ## `State.setDrive` -/

@[simp] theorem setDrive_drive_same (s : State) (n : DriveId) (d : Drive) : (s.setDrive n d).drive n = d := by
  cases n <;> rfl

theorem setDrive_drive_other (s : State) {n m : DriveId} (d : Drive) (h : m ≠ n) :
    (s.setDrive n d).drive m = s.drive m := by
  cases n <;> cases m <;> first | rfl | exact absurd rfl h

theorem setDrive_drive (s : State) (n m : DriveId) (d : Drive) :
    (s.setDrive n d).drive m = if m = n then d else s.drive m := by
  cases n <;> cases m <;> rfl

/-- Putting back what a drive already is changes nothing. -/
@[simp] theorem setDrive_self (s : State) (n : DriveId) : s.setDrive n (s.drive n) = s := by cases n <;> rfl

/-- Only the drives change. -/
theorem setDrive_only (s : State) (n : DriveId) (d : Drive) :
    s.setDrive n d = { s with drive0 := (s.setDrive n d).drive0, drive1 := (s.setDrive n d).drive1 } := by
  cases n <;> rfl

@[simp] theorem setDrive_cfg (s : State) (n : DriveId) (d : Drive) : (s.setDrive n d).cfg = s.cfg := by
  cases n <;> rfl

@[simp] theorem setDrive_busy (s : State) (n : DriveId) (d : Drive) : (s.setDrive n d).busy = s.busy := by
  cases n <;> rfl

@[simp] theorem setDrive_resultFull (s : State) (n : DriveId) (d : Drive) : (s.setDrive n d).resultFull = s.resultFull := by
  cases n <;> rfl

@[simp] theorem setDrive_irq (s : State) (n : DriveId) (d : Drive) : (s.setDrive n d).irq = s.irq := by
  cases n <;> rfl

@[simp] theorem setDrive_drq (s : State) (n : DriveId) (d : Drive) : (s.setDrive n d).drq = s.drq := by
  cases n <;> rfl

@[simp] theorem setDrive_regs (s : State) (n : DriveId) (d : Drive) : (s.setDrive n d).regs = s.regs := by
  cases n <;> rfl

@[simp] theorem setDrive_cmd (s : State) (n : DriveId) (d : Drive) : (s.setDrive n d).cmd = s.cmd := by
  cases n <;> rfl

@[simp] theorem setDrive_params (s : State) (n : DriveId) (d : Drive) : (s.setDrive n d).params = s.params := by
  cases n <;> rfl

@[simp] theorem setDrive_nexp (s : State) (n : DriveId) (d : Drive) : (s.setDrive n d).nexp = s.nexp := by
  cases n <;> rfl

@[simp] theorem setDrive_result (s : State) (n : DriveId) (d : Drive) : (s.setDrive n d).result = s.result := by
  cases n <;> rfl

@[simp] theorem setDrive_data (s : State) (n : DriveId) (d : Drive) : (s.setDrive n d).data = s.data := by
  cases n <;> rfl

@[simp] theorem setDrive_driveOut (s : State) (n : DriveId) (d : Drive) : (s.setDrive n d).driveOut = s.driveOut := by
  cases n <;> rfl

@[simp] theorem setDrive_fsm (s : State) (n : DriveId) (d : Drive) : (s.setDrive n d).fsm = s.fsm := by
  cases n <;> rfl

@[simp] theorem setDrive_sr (s : State) (n : DriveId) (d : Drive) : (s.setDrive n d).sr = s.sr := by
  cases n <;> rfl

@[simp] theorem setDrive_nbits (s : State) (n : DriveId) (d : Drive) : (s.setDrive n d).nbits = s.nbits := by
  cases n <;> rfl

@[simp] theorem setDrive_op (s : State) (n : DriveId) (d : Drive) : (s.setDrive n d).op = s.op := by
  cases n <;> rfl

@[simp] theorem setDrive_seek (s : State) (n : DriveId) (d : Drive) : (s.setDrive n d).seek = s.seek := by
  cases n <;> rfl

@[simp] theorem setDrive_cap (s : State) (n : DriveId) (d : Drive) : (s.setDrive n d).cap = s.cap := by
  cases n <;> rfl

@[simp] theorem setDrive_deletedSeen (s : State) (n : DriveId) (d : Drive) : (s.setDrive n d).deletedSeen = s.deletedSeen := by
  cases n <;> rfl

@[simp] theorem setDrive_indexCount (s : State) (n : DriveId) (d : Drive) : (s.setDrive n d).indexCount = s.indexCount := by
  cases n <;> rfl

@[simp] theorem setDrive_wr (s : State) (n : DriveId) (d : Drive) : (s.setDrive n d).wr = s.wr := by
  cases n <;> rfl

@[simp] theorem setDrive_unload (s : State) (n : DriveId) (d : Drive) : (s.setDrive n d).unload = s.unload := by
  cases n <;> rfl

@[simp] theorem setDrive_lastIndex (s : State) (n : DriveId) (d : Drive) : (s.setDrive n d).lastIndex = s.lastIndex := by
  cases n <;> rfl

@[simp] theorem setDrive_timer (s : State) (n : DriveId) (d : Drive) : (s.setDrive n d).timer = s.timer := by
  cases n <;> rfl

@[simp] theorem setDrive_cont (s : State) (n : DriveId) (d : Drive) : (s.setDrive n d).cont = s.cont := by
  cases n <;> rfl

@[simp] theorem setDrive_discs (s : State) (n : DriveId) (d : Drive) : (s.setDrive n d).discs = s.discs := by
  cases n <;> rfl

@[simp] theorem setDrive_epoch (s : State) (n : DriveId) (d : Drive) : (s.setDrive n d).epoch = s.epoch := by
  cases n <;> rfl

@[simp] theorem setDrive_nextSeq (s : State) (n : DriveId) (d : Drive) : (s.setDrive n d).nextSeq = s.nextSeq := by
  cases n <;> rfl

@[simp] theorem setDrive_intLine (s : State) (n : DriveId) (d : Drive) : (s.setDrive n d).intLine = s.intLine := by
  cases n <;> rfl

@[simp] theorem setDrive_readData (s : State) (n : DriveId) (d : Drive) : (s.setDrive n d).readData = s.readData := by
  cases n <;> rfl

@[simp] theorem setDrive_host (s : State) (n : DriveId) (d : Drive) : (s.setDrive n d).host = s.host := by
  cases n <;> rfl

@[simp] theorem setDrive_draws (s : State) (n : DriveId) (d : Drive) : (s.setDrive n d).draws = s.draws := by
  cases n <;> rfl

@[simp] theorem setDrive_cur (s : State) (n : DriveId) (d : Drive) : (s.setDrive n d).cur = s.cur := by
  cases n <;> rfl

@[simp] theorem setDrive_headLoaded (s : State) (n : DriveId) (d : Drive) : (s.setDrive n d).headLoaded = s.headLoaded := by
  cases n <;> rfl

@[simp] theorem setDrive_writeGate (s : State) (n : DriveId) (d : Drive) : (s.setDrive n d).writeGate = s.writeGate := by
  cases n <;> rfl

@[simp] theorem setDrive_command (s : State) (n : DriveId) (d : Drive) : (s.setDrive n d).command = s.command := by
  cases n <;> rfl

/-! ## `onDisc` -/

@[simp] theorem onDisc_cfg (n : DriveId) (f : Disc → Disc) (s : State) : (onDisc n f s).cfg = s.cfg := by unfold onDisc; split <;> rfl

@[simp] theorem onDisc_busy (n : DriveId) (f : Disc → Disc) (s : State) : (onDisc n f s).busy = s.busy := by unfold onDisc; split <;> rfl

@[simp] theorem onDisc_resultFull (n : DriveId) (f : Disc → Disc) (s : State) : (onDisc n f s).resultFull = s.resultFull := by unfold onDisc; split <;> rfl

@[simp] theorem onDisc_irq (n : DriveId) (f : Disc → Disc) (s : State) : (onDisc n f s).irq = s.irq := by unfold onDisc; split <;> rfl

@[simp] theorem onDisc_drq (n : DriveId) (f : Disc → Disc) (s : State) : (onDisc n f s).drq = s.drq := by unfold onDisc; split <;> rfl

@[simp] theorem onDisc_regs (n : DriveId) (f : Disc → Disc) (s : State) : (onDisc n f s).regs = s.regs := by unfold onDisc; split <;> rfl

@[simp] theorem onDisc_cmd (n : DriveId) (f : Disc → Disc) (s : State) : (onDisc n f s).cmd = s.cmd := by unfold onDisc; split <;> rfl

@[simp] theorem onDisc_params (n : DriveId) (f : Disc → Disc) (s : State) : (onDisc n f s).params = s.params := by unfold onDisc; split <;> rfl

@[simp] theorem onDisc_nexp (n : DriveId) (f : Disc → Disc) (s : State) : (onDisc n f s).nexp = s.nexp := by unfold onDisc; split <;> rfl

@[simp] theorem onDisc_result (n : DriveId) (f : Disc → Disc) (s : State) : (onDisc n f s).result = s.result := by unfold onDisc; split <;> rfl

@[simp] theorem onDisc_data (n : DriveId) (f : Disc → Disc) (s : State) : (onDisc n f s).data = s.data := by unfold onDisc; split <;> rfl

@[simp] theorem onDisc_driveOut (n : DriveId) (f : Disc → Disc) (s : State) : (onDisc n f s).driveOut = s.driveOut := by unfold onDisc; split <;> rfl

@[simp] theorem onDisc_fsm (n : DriveId) (f : Disc → Disc) (s : State) : (onDisc n f s).fsm = s.fsm := by unfold onDisc; split <;> rfl

@[simp] theorem onDisc_sr (n : DriveId) (f : Disc → Disc) (s : State) : (onDisc n f s).sr = s.sr := by unfold onDisc; split <;> rfl

@[simp] theorem onDisc_nbits (n : DriveId) (f : Disc → Disc) (s : State) : (onDisc n f s).nbits = s.nbits := by unfold onDisc; split <;> rfl

@[simp] theorem onDisc_op (n : DriveId) (f : Disc → Disc) (s : State) : (onDisc n f s).op = s.op := by unfold onDisc; split <;> rfl

@[simp] theorem onDisc_seek (n : DriveId) (f : Disc → Disc) (s : State) : (onDisc n f s).seek = s.seek := by unfold onDisc; split <;> rfl

@[simp] theorem onDisc_cap (n : DriveId) (f : Disc → Disc) (s : State) : (onDisc n f s).cap = s.cap := by unfold onDisc; split <;> rfl

@[simp] theorem onDisc_deletedSeen (n : DriveId) (f : Disc → Disc) (s : State) : (onDisc n f s).deletedSeen = s.deletedSeen := by unfold onDisc; split <;> rfl

@[simp] theorem onDisc_indexCount (n : DriveId) (f : Disc → Disc) (s : State) : (onDisc n f s).indexCount = s.indexCount := by unfold onDisc; split <;> rfl

@[simp] theorem onDisc_wr (n : DriveId) (f : Disc → Disc) (s : State) : (onDisc n f s).wr = s.wr := by unfold onDisc; split <;> rfl

@[simp] theorem onDisc_unload (n : DriveId) (f : Disc → Disc) (s : State) : (onDisc n f s).unload = s.unload := by unfold onDisc; split <;> rfl

@[simp] theorem onDisc_lastIndex (n : DriveId) (f : Disc → Disc) (s : State) : (onDisc n f s).lastIndex = s.lastIndex := by unfold onDisc; split <;> rfl

@[simp] theorem onDisc_timer (n : DriveId) (f : Disc → Disc) (s : State) : (onDisc n f s).timer = s.timer := by unfold onDisc; split <;> rfl

@[simp] theorem onDisc_cont (n : DriveId) (f : Disc → Disc) (s : State) : (onDisc n f s).cont = s.cont := by unfold onDisc; split <;> rfl

@[simp] theorem onDisc_drive0 (n : DriveId) (f : Disc → Disc) (s : State) : (onDisc n f s).drive0 = s.drive0 := by unfold onDisc; split <;> rfl

@[simp] theorem onDisc_drive1 (n : DriveId) (f : Disc → Disc) (s : State) : (onDisc n f s).drive1 = s.drive1 := by unfold onDisc; split <;> rfl

@[simp] theorem onDisc_epoch (n : DriveId) (f : Disc → Disc) (s : State) : (onDisc n f s).epoch = s.epoch := by unfold onDisc; split <;> rfl

@[simp] theorem onDisc_nextSeq (n : DriveId) (f : Disc → Disc) (s : State) : (onDisc n f s).nextSeq = s.nextSeq := by unfold onDisc; split <;> rfl

@[simp] theorem onDisc_intLine (n : DriveId) (f : Disc → Disc) (s : State) : (onDisc n f s).intLine = s.intLine := by unfold onDisc; split <;> rfl

@[simp] theorem onDisc_readData (n : DriveId) (f : Disc → Disc) (s : State) : (onDisc n f s).readData = s.readData := by unfold onDisc; split <;> rfl

@[simp] theorem onDisc_host (n : DriveId) (f : Disc → Disc) (s : State) : (onDisc n f s).host = s.host := by unfold onDisc; split <;> rfl

@[simp] theorem onDisc_draws (n : DriveId) (f : Disc → Disc) (s : State) : (onDisc n f s).draws = s.draws := by unfold onDisc; split <;> rfl

@[simp] theorem onDisc_drive (n : DriveId) (f : Disc → Disc) (s : State) (m : DriveId) : (onDisc n f s).drive m = s.drive m := by
  cases m <;> simp [State.drive]

@[simp] theorem onDisc_cur (n : DriveId) (f : Disc → Disc) (s : State) : (onDisc n f s).cur = s.cur := by simp [State.cur]

@[simp] theorem onDisc_headLoaded (n : DriveId) (f : Disc → Disc) (s : State) : (onDisc n f s).headLoaded = s.headLoaded := by simp [State.headLoaded]

@[simp] theorem onDisc_writeGate (n : DriveId) (f : Disc → Disc) (s : State) : (onDisc n f s).writeGate = s.writeGate := by simp [State.writeGate]

@[simp] theorem onDisc_command (n : DriveId) (f : Disc → Disc) (s : State) : (onDisc n f s).command = s.command := by simp [State.command]

/-! ## `flushDisc` -/

@[simp] theorem flushDisc_cfg (n : DriveId) (s : State) : (flushDisc n s).cfg = s.cfg := by simp [flushDisc]

@[simp] theorem flushDisc_busy (n : DriveId) (s : State) : (flushDisc n s).busy = s.busy := by simp [flushDisc]

@[simp] theorem flushDisc_resultFull (n : DriveId) (s : State) : (flushDisc n s).resultFull = s.resultFull := by simp [flushDisc]

@[simp] theorem flushDisc_irq (n : DriveId) (s : State) : (flushDisc n s).irq = s.irq := by simp [flushDisc]

@[simp] theorem flushDisc_drq (n : DriveId) (s : State) : (flushDisc n s).drq = s.drq := by simp [flushDisc]

@[simp] theorem flushDisc_regs (n : DriveId) (s : State) : (flushDisc n s).regs = s.regs := by simp [flushDisc]

@[simp] theorem flushDisc_cmd (n : DriveId) (s : State) : (flushDisc n s).cmd = s.cmd := by simp [flushDisc]

@[simp] theorem flushDisc_params (n : DriveId) (s : State) : (flushDisc n s).params = s.params := by simp [flushDisc]

@[simp] theorem flushDisc_nexp (n : DriveId) (s : State) : (flushDisc n s).nexp = s.nexp := by simp [flushDisc]

@[simp] theorem flushDisc_result (n : DriveId) (s : State) : (flushDisc n s).result = s.result := by simp [flushDisc]

@[simp] theorem flushDisc_data (n : DriveId) (s : State) : (flushDisc n s).data = s.data := by simp [flushDisc]

@[simp] theorem flushDisc_driveOut (n : DriveId) (s : State) : (flushDisc n s).driveOut = s.driveOut := by simp [flushDisc]

@[simp] theorem flushDisc_fsm (n : DriveId) (s : State) : (flushDisc n s).fsm = s.fsm := by simp [flushDisc]

@[simp] theorem flushDisc_sr (n : DriveId) (s : State) : (flushDisc n s).sr = s.sr := by simp [flushDisc]

@[simp] theorem flushDisc_nbits (n : DriveId) (s : State) : (flushDisc n s).nbits = s.nbits := by simp [flushDisc]

@[simp] theorem flushDisc_op (n : DriveId) (s : State) : (flushDisc n s).op = s.op := by simp [flushDisc]

@[simp] theorem flushDisc_seek (n : DriveId) (s : State) : (flushDisc n s).seek = s.seek := by simp [flushDisc]

@[simp] theorem flushDisc_cap (n : DriveId) (s : State) : (flushDisc n s).cap = s.cap := by simp [flushDisc]

@[simp] theorem flushDisc_deletedSeen (n : DriveId) (s : State) : (flushDisc n s).deletedSeen = s.deletedSeen := by simp [flushDisc]

@[simp] theorem flushDisc_indexCount (n : DriveId) (s : State) : (flushDisc n s).indexCount = s.indexCount := by simp [flushDisc]

@[simp] theorem flushDisc_wr (n : DriveId) (s : State) : (flushDisc n s).wr = s.wr := by simp [flushDisc]

@[simp] theorem flushDisc_unload (n : DriveId) (s : State) : (flushDisc n s).unload = s.unload := by simp [flushDisc]

@[simp] theorem flushDisc_lastIndex (n : DriveId) (s : State) : (flushDisc n s).lastIndex = s.lastIndex := by simp [flushDisc]

@[simp] theorem flushDisc_timer (n : DriveId) (s : State) : (flushDisc n s).timer = s.timer := by simp [flushDisc]

@[simp] theorem flushDisc_cont (n : DriveId) (s : State) : (flushDisc n s).cont = s.cont := by simp [flushDisc]

@[simp] theorem flushDisc_drive0 (n : DriveId) (s : State) : (flushDisc n s).drive0 = s.drive0 := by simp [flushDisc]

@[simp] theorem flushDisc_drive1 (n : DriveId) (s : State) : (flushDisc n s).drive1 = s.drive1 := by simp [flushDisc]

@[simp] theorem flushDisc_epoch (n : DriveId) (s : State) : (flushDisc n s).epoch = s.epoch := by simp [flushDisc]

@[simp] theorem flushDisc_nextSeq (n : DriveId) (s : State) : (flushDisc n s).nextSeq = s.nextSeq := by simp [flushDisc]

@[simp] theorem flushDisc_intLine (n : DriveId) (s : State) : (flushDisc n s).intLine = s.intLine := by simp [flushDisc]

@[simp] theorem flushDisc_readData (n : DriveId) (s : State) : (flushDisc n s).readData = s.readData := by simp [flushDisc]

@[simp] theorem flushDisc_host (n : DriveId) (s : State) : (flushDisc n s).host = s.host := by simp [flushDisc]

@[simp] theorem flushDisc_draws (n : DriveId) (s : State) : (flushDisc n s).draws = s.draws := by simp [flushDisc]

@[simp] theorem flushDisc_drive (n : DriveId) (s : State) (m : DriveId) : (flushDisc n s).drive m = s.drive m := by
  cases m <;> simp [State.drive]

@[simp] theorem flushDisc_cur (n : DriveId) (s : State) : (flushDisc n s).cur = s.cur := by simp [State.cur]

@[simp] theorem flushDisc_headLoaded (n : DriveId) (s : State) : (flushDisc n s).headLoaded = s.headLoaded := by simp [State.headLoaded]

@[simp] theorem flushDisc_writeGate (n : DriveId) (s : State) : (flushDisc n s).writeGate = s.writeGate := by simp [State.writeGate]

@[simp] theorem flushDisc_command (n : DriveId) (s : State) : (flushDisc n s).command = s.command := by simp [State.command]

/-! ## The scheduler's operations (40_environment.md R122, R123) -/

@[simp] theorem task_timer (s : State) : s.task .timer = s.timer := rfl

@[simp] theorem task_rotation (s : State) (n : DriveId) : s.task (.rotation n) = (s.drive n).rotation := rfl

@[simp] theorem cancel_timer (s : State) : s.cancel .timer = { s with timer := none } := rfl

@[simp] theorem cancel_rotation (s : State) (n : DriveId) :
    s.cancel (.rotation n) = s.setDrive n ((s.drive n).withRotation none) := rfl

@[simp] theorem reschedule_timer (s : State) (d : Nat) :
    s.reschedule .timer d = { s with timer := some (s.armed d), nextSeq := s.nextSeq + 1 } := rfl

@[simp] theorem reschedule_rotation (s : State) (n : DriveId) (d : Nat) :
    s.reschedule (.rotation n) d = (s.setDrive n ((s.drive n).withRotation (some (s.armed d)))).countSeq := rfl

/-! ## `setIrq` -/

@[simp] theorem setIrq_cfg (b : Bool) (s : State) : (setIrq b s).cfg = s.cfg := rfl

@[simp] theorem setIrq_busy (b : Bool) (s : State) : (setIrq b s).busy = s.busy := rfl

@[simp] theorem setIrq_resultFull (b : Bool) (s : State) : (setIrq b s).resultFull = s.resultFull := rfl

@[simp] theorem setIrq_irq (b : Bool) (s : State) : (setIrq b s).irq = b := rfl

@[simp] theorem setIrq_drq (b : Bool) (s : State) : (setIrq b s).drq = s.drq := rfl

@[simp] theorem setIrq_regs (b : Bool) (s : State) : (setIrq b s).regs = s.regs := rfl

@[simp] theorem setIrq_cmd (b : Bool) (s : State) : (setIrq b s).cmd = s.cmd := rfl

@[simp] theorem setIrq_params (b : Bool) (s : State) : (setIrq b s).params = s.params := rfl

@[simp] theorem setIrq_nexp (b : Bool) (s : State) : (setIrq b s).nexp = s.nexp := rfl

@[simp] theorem setIrq_result (b : Bool) (s : State) : (setIrq b s).result = s.result := rfl

@[simp] theorem setIrq_data (b : Bool) (s : State) : (setIrq b s).data = s.data := rfl

@[simp] theorem setIrq_driveOut (b : Bool) (s : State) : (setIrq b s).driveOut = s.driveOut := rfl

@[simp] theorem setIrq_fsm (b : Bool) (s : State) : (setIrq b s).fsm = s.fsm := rfl

@[simp] theorem setIrq_sr (b : Bool) (s : State) : (setIrq b s).sr = s.sr := rfl

@[simp] theorem setIrq_nbits (b : Bool) (s : State) : (setIrq b s).nbits = s.nbits := rfl

@[simp] theorem setIrq_op (b : Bool) (s : State) : (setIrq b s).op = s.op := rfl

@[simp] theorem setIrq_seek (b : Bool) (s : State) : (setIrq b s).seek = s.seek := rfl

@[simp] theorem setIrq_cap (b : Bool) (s : State) : (setIrq b s).cap = s.cap := rfl

@[simp] theorem setIrq_deletedSeen (b : Bool) (s : State) : (setIrq b s).deletedSeen = s.deletedSeen := rfl

@[simp] theorem setIrq_indexCount (b : Bool) (s : State) : (setIrq b s).indexCount = s.indexCount := rfl

@[simp] theorem setIrq_wr (b : Bool) (s : State) : (setIrq b s).wr = s.wr := rfl

@[simp] theorem setIrq_unload (b : Bool) (s : State) : (setIrq b s).unload = s.unload := rfl

@[simp] theorem setIrq_lastIndex (b : Bool) (s : State) : (setIrq b s).lastIndex = s.lastIndex := rfl

@[simp] theorem setIrq_timer (b : Bool) (s : State) : (setIrq b s).timer = s.timer := rfl

@[simp] theorem setIrq_cont (b : Bool) (s : State) : (setIrq b s).cont = s.cont := rfl

@[simp] theorem setIrq_discs (b : Bool) (s : State) : (setIrq b s).discs = s.discs := rfl

@[simp] theorem setIrq_drive0 (b : Bool) (s : State) : (setIrq b s).drive0 = s.drive0 := rfl

@[simp] theorem setIrq_drive1 (b : Bool) (s : State) : (setIrq b s).drive1 = s.drive1 := rfl

@[simp] theorem setIrq_epoch (b : Bool) (s : State) : (setIrq b s).epoch = s.epoch := rfl

@[simp] theorem setIrq_nextSeq (b : Bool) (s : State) : (setIrq b s).nextSeq = s.nextSeq := rfl

@[simp] theorem setIrq_intLine (b : Bool) (s : State) : (setIrq b s).intLine = b := rfl

@[simp] theorem setIrq_readData (b : Bool) (s : State) : (setIrq b s).readData = s.readData := rfl

@[simp] theorem setIrq_host (b : Bool) (s : State) : (setIrq b s).host = s.host := rfl

@[simp] theorem setIrq_draws (b : Bool) (s : State) : (setIrq b s).draws = s.draws := rfl

@[simp] theorem setIrq_drive (b : Bool) (s : State) (m : DriveId) : (setIrq b s).drive m = s.drive m := by
  cases m <;> rfl

@[simp] theorem setIrq_cur (b : Bool) (s : State) : (setIrq b s).cur = s.cur := rfl

@[simp] theorem setIrq_headLoaded (b : Bool) (s : State) : (setIrq b s).headLoaded = s.headLoaded := rfl

@[simp] theorem setIrq_writeGate (b : Bool) (s : State) : (setIrq b s).writeGate = s.writeGate := rfl

@[simp] theorem setIrq_command (b : Bool) (s : State) : (setIrq b s).command = s.command := rfl

/-! ## `answer` -/

@[simp] theorem answer_cfg (v : Byte) (s : State) : (answer v s).cfg = s.cfg := rfl

@[simp] theorem answer_busy (v : Byte) (s : State) : (answer v s).busy = s.busy := rfl

@[simp] theorem answer_resultFull (v : Byte) (s : State) : (answer v s).resultFull = s.resultFull := rfl

@[simp] theorem answer_irq (v : Byte) (s : State) : (answer v s).irq = s.irq := rfl

@[simp] theorem answer_drq (v : Byte) (s : State) : (answer v s).drq = s.drq := rfl

@[simp] theorem answer_regs (v : Byte) (s : State) : (answer v s).regs = s.regs := rfl

@[simp] theorem answer_cmd (v : Byte) (s : State) : (answer v s).cmd = s.cmd := rfl

@[simp] theorem answer_params (v : Byte) (s : State) : (answer v s).params = s.params := rfl

@[simp] theorem answer_nexp (v : Byte) (s : State) : (answer v s).nexp = s.nexp := rfl

@[simp] theorem answer_result (v : Byte) (s : State) : (answer v s).result = s.result := rfl

@[simp] theorem answer_data (v : Byte) (s : State) : (answer v s).data = s.data := rfl

@[simp] theorem answer_driveOut (v : Byte) (s : State) : (answer v s).driveOut = s.driveOut := rfl

@[simp] theorem answer_fsm (v : Byte) (s : State) : (answer v s).fsm = s.fsm := rfl

@[simp] theorem answer_sr (v : Byte) (s : State) : (answer v s).sr = s.sr := rfl

@[simp] theorem answer_nbits (v : Byte) (s : State) : (answer v s).nbits = s.nbits := rfl

@[simp] theorem answer_op (v : Byte) (s : State) : (answer v s).op = s.op := rfl

@[simp] theorem answer_seek (v : Byte) (s : State) : (answer v s).seek = s.seek := rfl

@[simp] theorem answer_cap (v : Byte) (s : State) : (answer v s).cap = s.cap := rfl

@[simp] theorem answer_deletedSeen (v : Byte) (s : State) : (answer v s).deletedSeen = s.deletedSeen := rfl

@[simp] theorem answer_indexCount (v : Byte) (s : State) : (answer v s).indexCount = s.indexCount := rfl

@[simp] theorem answer_wr (v : Byte) (s : State) : (answer v s).wr = s.wr := rfl

@[simp] theorem answer_unload (v : Byte) (s : State) : (answer v s).unload = s.unload := rfl

@[simp] theorem answer_lastIndex (v : Byte) (s : State) : (answer v s).lastIndex = s.lastIndex := rfl

@[simp] theorem answer_timer (v : Byte) (s : State) : (answer v s).timer = s.timer := rfl

@[simp] theorem answer_cont (v : Byte) (s : State) : (answer v s).cont = s.cont := rfl

@[simp] theorem answer_discs (v : Byte) (s : State) : (answer v s).discs = s.discs := rfl

@[simp] theorem answer_drive0 (v : Byte) (s : State) : (answer v s).drive0 = s.drive0 := rfl

@[simp] theorem answer_drive1 (v : Byte) (s : State) : (answer v s).drive1 = s.drive1 := rfl

@[simp] theorem answer_epoch (v : Byte) (s : State) : (answer v s).epoch = s.epoch := rfl

@[simp] theorem answer_nextSeq (v : Byte) (s : State) : (answer v s).nextSeq = s.nextSeq := rfl

@[simp] theorem answer_intLine (v : Byte) (s : State) : (answer v s).intLine = s.intLine := rfl

@[simp] theorem answer_readData (v : Byte) (s : State) : (answer v s).readData = v := rfl

@[simp] theorem answer_host (v : Byte) (s : State) : (answer v s).host = s.host := rfl

@[simp] theorem answer_draws (v : Byte) (s : State) : (answer v s).draws = s.draws := rfl

@[simp] theorem answer_drive (v : Byte) (s : State) (m : DriveId) : (answer v s).drive m = s.drive m := by
  cases m <;> rfl

@[simp] theorem answer_cur (v : Byte) (s : State) : (answer v s).cur = s.cur := rfl

@[simp] theorem answer_headLoaded (v : Byte) (s : State) : (answer v s).headLoaded = s.headLoaded := rfl

@[simp] theorem answer_writeGate (v : Byte) (s : State) : (answer v s).writeGate = s.writeGate := rfl

@[simp] theorem answer_command (v : Byte) (s : State) : (answer v s).command = s.command := rfl

/-! ## `request` -/

@[simp] theorem request_cfg  (s : State) : (request s).cfg = s.cfg := rfl

@[simp] theorem request_busy  (s : State) : (request s).busy = s.busy := rfl

@[simp] theorem request_resultFull  (s : State) : (request s).resultFull = s.resultFull := rfl

@[simp] theorem request_irq  (s : State) : (request s).irq = true := rfl

@[simp] theorem request_drq  (s : State) : (request s).drq = true := rfl

@[simp] theorem request_regs  (s : State) : (request s).regs = s.regs := rfl

@[simp] theorem request_cmd  (s : State) : (request s).cmd = s.cmd := rfl

@[simp] theorem request_params  (s : State) : (request s).params = s.params := rfl

@[simp] theorem request_nexp  (s : State) : (request s).nexp = s.nexp := rfl

@[simp] theorem request_result  (s : State) : (request s).result = s.result := rfl

@[simp] theorem request_data  (s : State) : (request s).data = s.data := rfl

@[simp] theorem request_driveOut  (s : State) : (request s).driveOut = s.driveOut := rfl

@[simp] theorem request_fsm  (s : State) : (request s).fsm = s.fsm := rfl

@[simp] theorem request_sr  (s : State) : (request s).sr = s.sr := rfl

@[simp] theorem request_nbits  (s : State) : (request s).nbits = s.nbits := rfl

@[simp] theorem request_op  (s : State) : (request s).op = s.op := rfl

@[simp] theorem request_seek  (s : State) : (request s).seek = s.seek := rfl

@[simp] theorem request_cap  (s : State) : (request s).cap = s.cap := rfl

@[simp] theorem request_deletedSeen  (s : State) : (request s).deletedSeen = s.deletedSeen := rfl

@[simp] theorem request_indexCount  (s : State) : (request s).indexCount = s.indexCount := rfl

@[simp] theorem request_wr  (s : State) : (request s).wr = s.wr := rfl

@[simp] theorem request_unload  (s : State) : (request s).unload = s.unload := rfl

@[simp] theorem request_lastIndex  (s : State) : (request s).lastIndex = s.lastIndex := rfl

@[simp] theorem request_timer  (s : State) : (request s).timer = s.timer := rfl

@[simp] theorem request_cont  (s : State) : (request s).cont = s.cont := rfl

@[simp] theorem request_discs  (s : State) : (request s).discs = s.discs := rfl

@[simp] theorem request_drive0  (s : State) : (request s).drive0 = s.drive0 := rfl

@[simp] theorem request_drive1  (s : State) : (request s).drive1 = s.drive1 := rfl

@[simp] theorem request_epoch  (s : State) : (request s).epoch = s.epoch := rfl

@[simp] theorem request_nextSeq  (s : State) : (request s).nextSeq = s.nextSeq := rfl

@[simp] theorem request_intLine  (s : State) : (request s).intLine = true := rfl

@[simp] theorem request_readData  (s : State) : (request s).readData = s.readData := rfl

@[simp] theorem request_host  (s : State) : (request s).host = s.host := rfl

@[simp] theorem request_draws  (s : State) : (request s).draws = s.draws := rfl

@[simp] theorem request_drive  (s : State) (m : DriveId) : (request s).drive m = s.drive m := by
  cases m <;> rfl

@[simp] theorem request_cur  (s : State) : (request s).cur = s.cur := rfl

@[simp] theorem request_headLoaded  (s : State) : (request s).headLoaded = s.headLoaded := rfl

@[simp] theorem request_writeGate  (s : State) : (request s).writeGate = s.writeGate := rfl

@[simp] theorem request_command  (s : State) : (request s).command = s.command := rfl

/-! ## `offer` -/

@[simp] theorem offer_cfg (d : Byte) (s : State) : (offer d s).cfg = s.cfg := rfl

@[simp] theorem offer_busy (d : Byte) (s : State) : (offer d s).busy = s.busy := rfl

@[simp] theorem offer_resultFull (d : Byte) (s : State) : (offer d s).resultFull = s.resultFull := rfl

@[simp] theorem offer_irq (d : Byte) (s : State) : (offer d s).irq = true := rfl

@[simp] theorem offer_drq (d : Byte) (s : State) : (offer d s).drq = true := rfl

@[simp] theorem offer_regs (d : Byte) (s : State) : (offer d s).regs = s.regs := rfl

@[simp] theorem offer_cmd (d : Byte) (s : State) : (offer d s).cmd = s.cmd := rfl

@[simp] theorem offer_params (d : Byte) (s : State) : (offer d s).params = s.params := rfl

@[simp] theorem offer_nexp (d : Byte) (s : State) : (offer d s).nexp = s.nexp := rfl

@[simp] theorem offer_result (d : Byte) (s : State) : (offer d s).result = s.result := rfl

@[simp] theorem offer_data (d : Byte) (s : State) : (offer d s).data = d := rfl

@[simp] theorem offer_driveOut (d : Byte) (s : State) : (offer d s).driveOut = s.driveOut := rfl

@[simp] theorem offer_fsm (d : Byte) (s : State) : (offer d s).fsm = s.fsm := rfl

@[simp] theorem offer_sr (d : Byte) (s : State) : (offer d s).sr = s.sr := rfl

@[simp] theorem offer_nbits (d : Byte) (s : State) : (offer d s).nbits = s.nbits := rfl

@[simp] theorem offer_op (d : Byte) (s : State) : (offer d s).op = s.op := rfl

@[simp] theorem offer_seek (d : Byte) (s : State) : (offer d s).seek = s.seek := rfl

@[simp] theorem offer_cap (d : Byte) (s : State) : (offer d s).cap = s.cap := rfl

@[simp] theorem offer_deletedSeen (d : Byte) (s : State) : (offer d s).deletedSeen = s.deletedSeen := rfl

@[simp] theorem offer_indexCount (d : Byte) (s : State) : (offer d s).indexCount = s.indexCount := rfl

@[simp] theorem offer_wr (d : Byte) (s : State) : (offer d s).wr = s.wr := rfl

@[simp] theorem offer_unload (d : Byte) (s : State) : (offer d s).unload = s.unload := rfl

@[simp] theorem offer_lastIndex (d : Byte) (s : State) : (offer d s).lastIndex = s.lastIndex := rfl

@[simp] theorem offer_timer (d : Byte) (s : State) : (offer d s).timer = s.timer := rfl

@[simp] theorem offer_cont (d : Byte) (s : State) : (offer d s).cont = s.cont := rfl

@[simp] theorem offer_discs (d : Byte) (s : State) : (offer d s).discs = s.discs := rfl

@[simp] theorem offer_drive0 (d : Byte) (s : State) : (offer d s).drive0 = s.drive0 := rfl

@[simp] theorem offer_drive1 (d : Byte) (s : State) : (offer d s).drive1 = s.drive1 := rfl

@[simp] theorem offer_epoch (d : Byte) (s : State) : (offer d s).epoch = s.epoch := rfl

@[simp] theorem offer_nextSeq (d : Byte) (s : State) : (offer d s).nextSeq = s.nextSeq := rfl

@[simp] theorem offer_intLine (d : Byte) (s : State) : (offer d s).intLine = true := rfl

@[simp] theorem offer_readData (d : Byte) (s : State) : (offer d s).readData = s.readData := rfl

@[simp] theorem offer_host (d : Byte) (s : State) : (offer d s).host = s.host := rfl

@[simp] theorem offer_draws (d : Byte) (s : State) : (offer d s).draws = s.draws := rfl

@[simp] theorem offer_drive (d : Byte) (s : State) (m : DriveId) : (offer d s).drive m = s.drive m := by
  cases m <;> rfl

@[simp] theorem offer_cur (d : Byte) (s : State) : (offer d s).cur = s.cur := rfl

@[simp] theorem offer_headLoaded (d : Byte) (s : State) : (offer d s).headLoaded = s.headLoaded := rfl

@[simp] theorem offer_writeGate (d : Byte) (s : State) : (offer d s).writeGate = s.writeGate := rfl

@[simp] theorem offer_command (d : Byte) (s : State) : (offer d s).command = s.command := rfl

/-! ## `State.countSeq` -/

@[simp] theorem countSeq_cfg  (s : State) : (s.countSeq).cfg = s.cfg := rfl

@[simp] theorem countSeq_busy  (s : State) : (s.countSeq).busy = s.busy := rfl

@[simp] theorem countSeq_resultFull  (s : State) : (s.countSeq).resultFull = s.resultFull := rfl

@[simp] theorem countSeq_irq  (s : State) : (s.countSeq).irq = s.irq := rfl

@[simp] theorem countSeq_drq  (s : State) : (s.countSeq).drq = s.drq := rfl

@[simp] theorem countSeq_regs  (s : State) : (s.countSeq).regs = s.regs := rfl

@[simp] theorem countSeq_cmd  (s : State) : (s.countSeq).cmd = s.cmd := rfl

@[simp] theorem countSeq_params  (s : State) : (s.countSeq).params = s.params := rfl

@[simp] theorem countSeq_nexp  (s : State) : (s.countSeq).nexp = s.nexp := rfl

@[simp] theorem countSeq_result  (s : State) : (s.countSeq).result = s.result := rfl

@[simp] theorem countSeq_data  (s : State) : (s.countSeq).data = s.data := rfl

@[simp] theorem countSeq_driveOut  (s : State) : (s.countSeq).driveOut = s.driveOut := rfl

@[simp] theorem countSeq_fsm  (s : State) : (s.countSeq).fsm = s.fsm := rfl

@[simp] theorem countSeq_sr  (s : State) : (s.countSeq).sr = s.sr := rfl

@[simp] theorem countSeq_nbits  (s : State) : (s.countSeq).nbits = s.nbits := rfl

@[simp] theorem countSeq_op  (s : State) : (s.countSeq).op = s.op := rfl

@[simp] theorem countSeq_seek  (s : State) : (s.countSeq).seek = s.seek := rfl

@[simp] theorem countSeq_cap  (s : State) : (s.countSeq).cap = s.cap := rfl

@[simp] theorem countSeq_deletedSeen  (s : State) : (s.countSeq).deletedSeen = s.deletedSeen := rfl

@[simp] theorem countSeq_indexCount  (s : State) : (s.countSeq).indexCount = s.indexCount := rfl

@[simp] theorem countSeq_wr  (s : State) : (s.countSeq).wr = s.wr := rfl

@[simp] theorem countSeq_unload  (s : State) : (s.countSeq).unload = s.unload := rfl

@[simp] theorem countSeq_lastIndex  (s : State) : (s.countSeq).lastIndex = s.lastIndex := rfl

@[simp] theorem countSeq_timer  (s : State) : (s.countSeq).timer = s.timer := rfl

@[simp] theorem countSeq_cont  (s : State) : (s.countSeq).cont = s.cont := rfl

@[simp] theorem countSeq_discs  (s : State) : (s.countSeq).discs = s.discs := rfl

@[simp] theorem countSeq_drive0  (s : State) : (s.countSeq).drive0 = s.drive0 := rfl

@[simp] theorem countSeq_drive1  (s : State) : (s.countSeq).drive1 = s.drive1 := rfl

@[simp] theorem countSeq_epoch  (s : State) : (s.countSeq).epoch = s.epoch := rfl

@[simp] theorem countSeq_nextSeq  (s : State) : (s.countSeq).nextSeq = s.nextSeq + 1 := rfl

@[simp] theorem countSeq_intLine  (s : State) : (s.countSeq).intLine = s.intLine := rfl

@[simp] theorem countSeq_readData  (s : State) : (s.countSeq).readData = s.readData := rfl

@[simp] theorem countSeq_host  (s : State) : (s.countSeq).host = s.host := rfl

@[simp] theorem countSeq_draws  (s : State) : (s.countSeq).draws = s.draws := rfl

@[simp] theorem countSeq_drive  (s : State) (m : DriveId) : (s.countSeq).drive m = s.drive m := by
  cases m <;> rfl

@[simp] theorem countSeq_cur  (s : State) : (s.countSeq).cur = s.cur := rfl

@[simp] theorem countSeq_headLoaded  (s : State) : (s.countSeq).headLoaded = s.headLoaded := rfl

@[simp] theorem countSeq_writeGate  (s : State) : (s.countSeq).writeGate = s.writeGate := rfl

@[simp] theorem countSeq_command  (s : State) : (s.countSeq).command = s.command := rfl

/-! ## `State.disarm` -/

@[simp] theorem disarm_cfg  (s : State) : (s.disarm).cfg = s.cfg := rfl

@[simp] theorem disarm_busy  (s : State) : (s.disarm).busy = s.busy := rfl

@[simp] theorem disarm_resultFull  (s : State) : (s.disarm).resultFull = s.resultFull := rfl

@[simp] theorem disarm_irq  (s : State) : (s.disarm).irq = s.irq := rfl

@[simp] theorem disarm_drq  (s : State) : (s.disarm).drq = s.drq := rfl

@[simp] theorem disarm_regs  (s : State) : (s.disarm).regs = s.regs := rfl

@[simp] theorem disarm_cmd  (s : State) : (s.disarm).cmd = s.cmd := rfl

@[simp] theorem disarm_params  (s : State) : (s.disarm).params = s.params := rfl

@[simp] theorem disarm_nexp  (s : State) : (s.disarm).nexp = s.nexp := rfl

@[simp] theorem disarm_result  (s : State) : (s.disarm).result = s.result := rfl

@[simp] theorem disarm_data  (s : State) : (s.disarm).data = s.data := rfl

@[simp] theorem disarm_driveOut  (s : State) : (s.disarm).driveOut = s.driveOut := rfl

@[simp] theorem disarm_fsm  (s : State) : (s.disarm).fsm = s.fsm := rfl

@[simp] theorem disarm_sr  (s : State) : (s.disarm).sr = s.sr := rfl

@[simp] theorem disarm_nbits  (s : State) : (s.disarm).nbits = s.nbits := rfl

@[simp] theorem disarm_op  (s : State) : (s.disarm).op = s.op := rfl

@[simp] theorem disarm_seek  (s : State) : (s.disarm).seek = s.seek := rfl

@[simp] theorem disarm_cap  (s : State) : (s.disarm).cap = s.cap := rfl

@[simp] theorem disarm_deletedSeen  (s : State) : (s.disarm).deletedSeen = s.deletedSeen := rfl

@[simp] theorem disarm_indexCount  (s : State) : (s.disarm).indexCount = s.indexCount := rfl

@[simp] theorem disarm_wr  (s : State) : (s.disarm).wr = s.wr := rfl

@[simp] theorem disarm_unload  (s : State) : (s.disarm).unload = s.unload := rfl

@[simp] theorem disarm_lastIndex  (s : State) : (s.disarm).lastIndex = s.lastIndex := rfl

@[simp] theorem disarm_timer  (s : State) : (s.disarm).timer = none := rfl

@[simp] theorem disarm_cont  (s : State) : (s.disarm).cont = .none := rfl

@[simp] theorem disarm_discs  (s : State) : (s.disarm).discs = s.discs := rfl

@[simp] theorem disarm_drive0  (s : State) : (s.disarm).drive0 = s.drive0 := rfl

@[simp] theorem disarm_drive1  (s : State) : (s.disarm).drive1 = s.drive1 := rfl

@[simp] theorem disarm_epoch  (s : State) : (s.disarm).epoch = s.epoch := rfl

@[simp] theorem disarm_nextSeq  (s : State) : (s.disarm).nextSeq = s.nextSeq := rfl

@[simp] theorem disarm_intLine  (s : State) : (s.disarm).intLine = s.intLine := rfl

@[simp] theorem disarm_readData  (s : State) : (s.disarm).readData = s.readData := rfl

@[simp] theorem disarm_host  (s : State) : (s.disarm).host = s.host := rfl

@[simp] theorem disarm_draws  (s : State) : (s.disarm).draws = s.draws := rfl

@[simp] theorem disarm_drive  (s : State) (m : DriveId) : (s.disarm).drive m = s.drive m := by
  cases m <;> rfl

@[simp] theorem disarm_cur  (s : State) : (s.disarm).cur = s.cur := rfl

@[simp] theorem disarm_headLoaded  (s : State) : (s.disarm).headLoaded = s.headLoaded := rfl

@[simp] theorem disarm_writeGate  (s : State) : (s.disarm).writeGate = s.writeGate := rfl

@[simp] theorem disarm_command  (s : State) : (s.disarm).command = s.command := rfl

/-! ## `State.withParams` -/

@[simp] theorem withParams_cfg (ps : List Byte) (s : State) : (s.withParams ps).cfg = s.cfg := rfl

@[simp] theorem withParams_busy (ps : List Byte) (s : State) : (s.withParams ps).busy = s.busy := rfl

@[simp] theorem withParams_resultFull (ps : List Byte) (s : State) : (s.withParams ps).resultFull = s.resultFull := rfl

@[simp] theorem withParams_irq (ps : List Byte) (s : State) : (s.withParams ps).irq = s.irq := rfl

@[simp] theorem withParams_drq (ps : List Byte) (s : State) : (s.withParams ps).drq = s.drq := rfl

@[simp] theorem withParams_regs (ps : List Byte) (s : State) : (s.withParams ps).regs = s.regs := rfl

@[simp] theorem withParams_cmd (ps : List Byte) (s : State) : (s.withParams ps).cmd = s.cmd := rfl

@[simp] theorem withParams_params (ps : List Byte) (s : State) : (s.withParams ps).params = ps := rfl

@[simp] theorem withParams_nexp (ps : List Byte) (s : State) : (s.withParams ps).nexp = s.nexp := rfl

@[simp] theorem withParams_result (ps : List Byte) (s : State) : (s.withParams ps).result = s.result := rfl

@[simp] theorem withParams_data (ps : List Byte) (s : State) : (s.withParams ps).data = s.data := rfl

@[simp] theorem withParams_driveOut (ps : List Byte) (s : State) : (s.withParams ps).driveOut = s.driveOut := rfl

@[simp] theorem withParams_fsm (ps : List Byte) (s : State) : (s.withParams ps).fsm = s.fsm := rfl

@[simp] theorem withParams_sr (ps : List Byte) (s : State) : (s.withParams ps).sr = s.sr := rfl

@[simp] theorem withParams_nbits (ps : List Byte) (s : State) : (s.withParams ps).nbits = s.nbits := rfl

@[simp] theorem withParams_op (ps : List Byte) (s : State) : (s.withParams ps).op = s.op := rfl

@[simp] theorem withParams_seek (ps : List Byte) (s : State) : (s.withParams ps).seek = s.seek := rfl

@[simp] theorem withParams_cap (ps : List Byte) (s : State) : (s.withParams ps).cap = s.cap := rfl

@[simp] theorem withParams_deletedSeen (ps : List Byte) (s : State) : (s.withParams ps).deletedSeen = s.deletedSeen := rfl

@[simp] theorem withParams_indexCount (ps : List Byte) (s : State) : (s.withParams ps).indexCount = s.indexCount := rfl

@[simp] theorem withParams_wr (ps : List Byte) (s : State) : (s.withParams ps).wr = s.wr := rfl

@[simp] theorem withParams_unload (ps : List Byte) (s : State) : (s.withParams ps).unload = s.unload := rfl

@[simp] theorem withParams_lastIndex (ps : List Byte) (s : State) : (s.withParams ps).lastIndex = s.lastIndex := rfl

@[simp] theorem withParams_timer (ps : List Byte) (s : State) : (s.withParams ps).timer = s.timer := rfl

@[simp] theorem withParams_cont (ps : List Byte) (s : State) : (s.withParams ps).cont = s.cont := rfl

@[simp] theorem withParams_discs (ps : List Byte) (s : State) : (s.withParams ps).discs = s.discs := rfl

@[simp] theorem withParams_drive0 (ps : List Byte) (s : State) : (s.withParams ps).drive0 = s.drive0 := rfl

@[simp] theorem withParams_drive1 (ps : List Byte) (s : State) : (s.withParams ps).drive1 = s.drive1 := rfl

@[simp] theorem withParams_epoch (ps : List Byte) (s : State) : (s.withParams ps).epoch = s.epoch := rfl

@[simp] theorem withParams_nextSeq (ps : List Byte) (s : State) : (s.withParams ps).nextSeq = s.nextSeq := rfl

@[simp] theorem withParams_intLine (ps : List Byte) (s : State) : (s.withParams ps).intLine = s.intLine := rfl

@[simp] theorem withParams_readData (ps : List Byte) (s : State) : (s.withParams ps).readData = s.readData := rfl

@[simp] theorem withParams_host (ps : List Byte) (s : State) : (s.withParams ps).host = s.host := rfl

@[simp] theorem withParams_draws (ps : List Byte) (s : State) : (s.withParams ps).draws = s.draws := rfl

@[simp] theorem withParams_drive (ps : List Byte) (s : State) (m : DriveId) : (s.withParams ps).drive m = s.drive m := by
  cases m <;> rfl

@[simp] theorem withParams_cur (ps : List Byte) (s : State) : (s.withParams ps).cur = s.cur := rfl

@[simp] theorem withParams_headLoaded (ps : List Byte) (s : State) : (s.withParams ps).headLoaded = s.headLoaded := rfl

@[simp] theorem withParams_writeGate (ps : List Byte) (s : State) : (s.withParams ps).writeGate = s.writeGate := rfl

@[simp] theorem withParams_command (ps : List Byte) (s : State) : (s.withParams ps).command = s.command := rfl

/-! ## `State.dropSlots` -/

@[simp] theorem dropSlots_cfg (n : Nat) (s : State) : (s.dropSlots n).cfg = s.cfg := rfl

@[simp] theorem dropSlots_busy (n : Nat) (s : State) : (s.dropSlots n).busy = s.busy := rfl

@[simp] theorem dropSlots_resultFull (n : Nat) (s : State) : (s.dropSlots n).resultFull = s.resultFull := rfl

@[simp] theorem dropSlots_irq (n : Nat) (s : State) : (s.dropSlots n).irq = s.irq := rfl

@[simp] theorem dropSlots_drq (n : Nat) (s : State) : (s.dropSlots n).drq = s.drq := rfl

@[simp] theorem dropSlots_regs (n : Nat) (s : State) : (s.dropSlots n).regs = s.regs := rfl

@[simp] theorem dropSlots_cmd (n : Nat) (s : State) : (s.dropSlots n).cmd = s.cmd := rfl

@[simp] theorem dropSlots_params (n : Nat) (s : State) : (s.dropSlots n).params = s.params := rfl

@[simp] theorem dropSlots_nexp (n : Nat) (s : State) : (s.dropSlots n).nexp = s.nexp := rfl

@[simp] theorem dropSlots_result (n : Nat) (s : State) : (s.dropSlots n).result = s.result := rfl

@[simp] theorem dropSlots_data (n : Nat) (s : State) : (s.dropSlots n).data = s.data := rfl

@[simp] theorem dropSlots_driveOut (n : Nat) (s : State) : (s.dropSlots n).driveOut = s.driveOut := rfl

@[simp] theorem dropSlots_fsm (n : Nat) (s : State) : (s.dropSlots n).fsm = s.fsm := rfl

@[simp] theorem dropSlots_sr (n : Nat) (s : State) : (s.dropSlots n).sr = s.sr := rfl

@[simp] theorem dropSlots_nbits (n : Nat) (s : State) : (s.dropSlots n).nbits = s.nbits := rfl

@[simp] theorem dropSlots_op (n : Nat) (s : State) : (s.dropSlots n).op = s.op := rfl

@[simp] theorem dropSlots_seek (n : Nat) (s : State) : (s.dropSlots n).seek = s.seek := rfl

@[simp] theorem dropSlots_cap (n : Nat) (s : State) : (s.dropSlots n).cap = s.cap := rfl

@[simp] theorem dropSlots_deletedSeen (n : Nat) (s : State) : (s.dropSlots n).deletedSeen = s.deletedSeen := rfl

@[simp] theorem dropSlots_indexCount (n : Nat) (s : State) : (s.dropSlots n).indexCount = s.indexCount := rfl

@[simp] theorem dropSlots_wr (n : Nat) (s : State) : (s.dropSlots n).wr = { s.wr with fifo := s.wr.fifo.drop n } := rfl

@[simp] theorem dropSlots_unload (n : Nat) (s : State) : (s.dropSlots n).unload = s.unload := rfl

@[simp] theorem dropSlots_lastIndex (n : Nat) (s : State) : (s.dropSlots n).lastIndex = s.lastIndex := rfl

@[simp] theorem dropSlots_timer (n : Nat) (s : State) : (s.dropSlots n).timer = s.timer := rfl

@[simp] theorem dropSlots_cont (n : Nat) (s : State) : (s.dropSlots n).cont = s.cont := rfl

@[simp] theorem dropSlots_discs (n : Nat) (s : State) : (s.dropSlots n).discs = s.discs := rfl

@[simp] theorem dropSlots_drive0 (n : Nat) (s : State) : (s.dropSlots n).drive0 = s.drive0 := rfl

@[simp] theorem dropSlots_drive1 (n : Nat) (s : State) : (s.dropSlots n).drive1 = s.drive1 := rfl

@[simp] theorem dropSlots_epoch (n : Nat) (s : State) : (s.dropSlots n).epoch = s.epoch := rfl

@[simp] theorem dropSlots_nextSeq (n : Nat) (s : State) : (s.dropSlots n).nextSeq = s.nextSeq := rfl

@[simp] theorem dropSlots_intLine (n : Nat) (s : State) : (s.dropSlots n).intLine = s.intLine := rfl

@[simp] theorem dropSlots_readData (n : Nat) (s : State) : (s.dropSlots n).readData = s.readData := rfl

@[simp] theorem dropSlots_host (n : Nat) (s : State) : (s.dropSlots n).host = s.host := rfl

@[simp] theorem dropSlots_draws (n : Nat) (s : State) : (s.dropSlots n).draws = s.draws := rfl

@[simp] theorem dropSlots_drive (n : Nat) (s : State) (m : DriveId) : (s.dropSlots n).drive m = s.drive m := by
  cases m <;> rfl

@[simp] theorem dropSlots_cur (n : Nat) (s : State) : (s.dropSlots n).cur = s.cur := rfl

@[simp] theorem dropSlots_headLoaded (n : Nat) (s : State) : (s.dropSlots n).headLoaded = s.headLoaded := rfl

@[simp] theorem dropSlots_writeGate (n : Nat) (s : State) : (s.dropSlots n).writeGate = s.writeGate := rfl

@[simp] theorem dropSlots_command (n : Nat) (s : State) : (s.dropSlots n).command = s.command := rfl

/-! ## `State.waitToLatch` -/

@[simp] theorem waitToLatch_cfg (code : Byte) (s : State) : (s.waitToLatch code).cfg = s.cfg := rfl

@[simp] theorem waitToLatch_busy (code : Byte) (s : State) : (s.waitToLatch code).busy = s.busy := rfl

@[simp] theorem waitToLatch_resultFull (code : Byte) (s : State) : (s.waitToLatch code).resultFull = s.resultFull := rfl

@[simp] theorem waitToLatch_irq (code : Byte) (s : State) : (s.waitToLatch code).irq = s.irq := rfl

@[simp] theorem waitToLatch_drq (code : Byte) (s : State) : (s.waitToLatch code).drq = s.drq := rfl

@[simp] theorem waitToLatch_regs (code : Byte) (s : State) : (s.waitToLatch code).regs = s.regs := rfl

@[simp] theorem waitToLatch_cmd (code : Byte) (s : State) : (s.waitToLatch code).cmd = s.cmd := rfl

@[simp] theorem waitToLatch_params (code : Byte) (s : State) : (s.waitToLatch code).params = s.params := rfl

@[simp] theorem waitToLatch_nexp (code : Byte) (s : State) : (s.waitToLatch code).nexp = s.nexp := rfl

@[simp] theorem waitToLatch_result (code : Byte) (s : State) : (s.waitToLatch code).result = s.result := rfl

@[simp] theorem waitToLatch_data (code : Byte) (s : State) : (s.waitToLatch code).data = s.data := rfl

@[simp] theorem waitToLatch_driveOut (code : Byte) (s : State) : (s.waitToLatch code).driveOut = s.driveOut := rfl

@[simp] theorem waitToLatch_fsm (code : Byte) (s : State) : (s.waitToLatch code).fsm = .completing := rfl

@[simp] theorem waitToLatch_sr (code : Byte) (s : State) : (s.waitToLatch code).sr = s.sr := rfl

@[simp] theorem waitToLatch_nbits (code : Byte) (s : State) : (s.waitToLatch code).nbits = s.nbits := rfl

@[simp] theorem waitToLatch_op (code : Byte) (s : State) : (s.waitToLatch code).op = s.op := rfl

@[simp] theorem waitToLatch_seek (code : Byte) (s : State) : (s.waitToLatch code).seek = s.seek := rfl

@[simp] theorem waitToLatch_cap (code : Byte) (s : State) : (s.waitToLatch code).cap = s.cap := rfl

@[simp] theorem waitToLatch_deletedSeen (code : Byte) (s : State) : (s.waitToLatch code).deletedSeen = s.deletedSeen := rfl

@[simp] theorem waitToLatch_indexCount (code : Byte) (s : State) : (s.waitToLatch code).indexCount = s.indexCount := rfl

@[simp] theorem waitToLatch_wr (code : Byte) (s : State) : (s.waitToLatch code).wr = s.wr := rfl

@[simp] theorem waitToLatch_unload (code : Byte) (s : State) : (s.waitToLatch code).unload = s.unload := rfl

@[simp] theorem waitToLatch_lastIndex (code : Byte) (s : State) : (s.waitToLatch code).lastIndex = s.lastIndex := rfl

@[simp] theorem waitToLatch_timer (code : Byte) (s : State) : (s.waitToLatch code).timer = some (s.armed s.cfg.completionDelay) := rfl

@[simp] theorem waitToLatch_cont (code : Byte) (s : State) : (s.waitToLatch code).cont = .latch code := rfl

@[simp] theorem waitToLatch_discs (code : Byte) (s : State) : (s.waitToLatch code).discs = s.discs := rfl

@[simp] theorem waitToLatch_drive0 (code : Byte) (s : State) : (s.waitToLatch code).drive0 = s.drive0 := rfl

@[simp] theorem waitToLatch_drive1 (code : Byte) (s : State) : (s.waitToLatch code).drive1 = s.drive1 := rfl

@[simp] theorem waitToLatch_epoch (code : Byte) (s : State) : (s.waitToLatch code).epoch = s.epoch := rfl

@[simp] theorem waitToLatch_nextSeq (code : Byte) (s : State) : (s.waitToLatch code).nextSeq = s.nextSeq + 1 := rfl

@[simp] theorem waitToLatch_intLine (code : Byte) (s : State) : (s.waitToLatch code).intLine = s.intLine := rfl

@[simp] theorem waitToLatch_readData (code : Byte) (s : State) : (s.waitToLatch code).readData = s.readData := rfl

@[simp] theorem waitToLatch_host (code : Byte) (s : State) : (s.waitToLatch code).host = s.host := rfl

@[simp] theorem waitToLatch_draws (code : Byte) (s : State) : (s.waitToLatch code).draws = s.draws := rfl

@[simp] theorem waitToLatch_drive (code : Byte) (s : State) (m : DriveId) : (s.waitToLatch code).drive m = s.drive m := by
  cases m <;> rfl

@[simp] theorem waitToLatch_cur (code : Byte) (s : State) : (s.waitToLatch code).cur = s.cur := rfl

@[simp] theorem waitToLatch_headLoaded (code : Byte) (s : State) : (s.waitToLatch code).headLoaded = s.headLoaded := rfl

@[simp] theorem waitToLatch_writeGate (code : Byte) (s : State) : (s.waitToLatch code).writeGate = s.writeGate := rfl

@[simp] theorem waitToLatch_command (code : Byte) (s : State) : (s.waitToLatch code).command = s.command := rfl

/-! ## `setOperands` -/

@[simp] theorem setOperands_cfg (o : Op) (s : State) : (setOperands o s).cfg = s.cfg := rfl

@[simp] theorem setOperands_busy (o : Op) (s : State) : (setOperands o s).busy = s.busy := rfl

@[simp] theorem setOperands_resultFull (o : Op) (s : State) : (setOperands o s).resultFull = s.resultFull := rfl

@[simp] theorem setOperands_irq (o : Op) (s : State) : (setOperands o s).irq = s.irq := rfl

@[simp] theorem setOperands_drq (o : Op) (s : State) : (setOperands o s).drq = s.drq := rfl

@[simp] theorem setOperands_regs (o : Op) (s : State) : (setOperands o s).regs = s.regs := rfl

@[simp] theorem setOperands_cmd (o : Op) (s : State) : (setOperands o s).cmd = s.cmd := rfl

@[simp] theorem setOperands_params (o : Op) (s : State) : (setOperands o s).params = s.params := rfl

@[simp] theorem setOperands_nexp (o : Op) (s : State) : (setOperands o s).nexp = s.nexp := rfl

@[simp] theorem setOperands_result (o : Op) (s : State) : (setOperands o s).result = s.result := rfl

@[simp] theorem setOperands_data (o : Op) (s : State) : (setOperands o s).data = s.data := rfl

@[simp] theorem setOperands_driveOut (o : Op) (s : State) : (setOperands o s).driveOut = s.driveOut := rfl

@[simp] theorem setOperands_fsm (o : Op) (s : State) : (setOperands o s).fsm = s.fsm := rfl

@[simp] theorem setOperands_sr (o : Op) (s : State) : (setOperands o s).sr = s.sr := rfl

@[simp] theorem setOperands_nbits (o : Op) (s : State) : (setOperands o s).nbits = s.nbits := rfl

@[simp] theorem setOperands_op (o : Op) (s : State) : (setOperands o s).op = operandsOf o s.param s.op := rfl

@[simp] theorem setOperands_seek (o : Op) (s : State) : (setOperands o s).seek = s.seek := rfl

@[simp] theorem setOperands_cap (o : Op) (s : State) : (setOperands o s).cap = s.cap := rfl

@[simp] theorem setOperands_deletedSeen (o : Op) (s : State) : (setOperands o s).deletedSeen = s.deletedSeen := rfl

@[simp] theorem setOperands_indexCount (o : Op) (s : State) : (setOperands o s).indexCount = s.indexCount := rfl

@[simp] theorem setOperands_wr (o : Op) (s : State) : (setOperands o s).wr = s.wr := rfl

@[simp] theorem setOperands_unload (o : Op) (s : State) : (setOperands o s).unload = s.unload := rfl

@[simp] theorem setOperands_lastIndex (o : Op) (s : State) : (setOperands o s).lastIndex = s.lastIndex := rfl

@[simp] theorem setOperands_timer (o : Op) (s : State) : (setOperands o s).timer = s.timer := rfl

@[simp] theorem setOperands_cont (o : Op) (s : State) : (setOperands o s).cont = s.cont := rfl

@[simp] theorem setOperands_discs (o : Op) (s : State) : (setOperands o s).discs = s.discs := rfl

@[simp] theorem setOperands_drive0 (o : Op) (s : State) : (setOperands o s).drive0 = s.drive0 := rfl

@[simp] theorem setOperands_drive1 (o : Op) (s : State) : (setOperands o s).drive1 = s.drive1 := rfl

@[simp] theorem setOperands_epoch (o : Op) (s : State) : (setOperands o s).epoch = s.epoch := rfl

@[simp] theorem setOperands_nextSeq (o : Op) (s : State) : (setOperands o s).nextSeq = s.nextSeq := rfl

@[simp] theorem setOperands_intLine (o : Op) (s : State) : (setOperands o s).intLine = s.intLine := rfl

@[simp] theorem setOperands_readData (o : Op) (s : State) : (setOperands o s).readData = s.readData := rfl

@[simp] theorem setOperands_host (o : Op) (s : State) : (setOperands o s).host = s.host := rfl

@[simp] theorem setOperands_draws (o : Op) (s : State) : (setOperands o s).draws = s.draws := rfl

@[simp] theorem setOperands_drive (o : Op) (s : State) (m : DriveId) : (setOperands o s).drive m = s.drive m := by
  cases m <;> rfl

@[simp] theorem setOperands_cur (o : Op) (s : State) : (setOperands o s).cur = s.cur := rfl

@[simp] theorem setOperands_headLoaded (o : Op) (s : State) : (setOperands o s).headLoaded = s.headLoaded := rfl

@[simp] theorem setOperands_writeGate (o : Op) (s : State) : (setOperands o s).writeGate = s.writeGate := rfl

@[simp] theorem setOperands_command (o : Op) (s : State) : (setOperands o s).command = s.command := rfl

/-! ## `beginSearch` -/

@[simp] theorem beginSearch_cfg  (s : State) : (beginSearch s).cfg = s.cfg := rfl

@[simp] theorem beginSearch_busy  (s : State) : (beginSearch s).busy = s.busy := rfl

@[simp] theorem beginSearch_resultFull  (s : State) : (beginSearch s).resultFull = s.resultFull := rfl

@[simp] theorem beginSearch_irq  (s : State) : (beginSearch s).irq = s.irq := rfl

@[simp] theorem beginSearch_drq  (s : State) : (beginSearch s).drq = s.drq := rfl

@[simp] theorem beginSearch_regs  (s : State) : (beginSearch s).regs = s.regs := rfl

@[simp] theorem beginSearch_cmd  (s : State) : (beginSearch s).cmd = s.cmd := rfl

@[simp] theorem beginSearch_params  (s : State) : (beginSearch s).params = s.params := rfl

@[simp] theorem beginSearch_nexp  (s : State) : (beginSearch s).nexp = s.nexp := rfl

@[simp] theorem beginSearch_result  (s : State) : (beginSearch s).result = s.result := rfl

@[simp] theorem beginSearch_data  (s : State) : (beginSearch s).data = s.data := rfl

@[simp] theorem beginSearch_driveOut  (s : State) : (beginSearch s).driveOut = s.driveOut := rfl

@[simp] theorem beginSearch_fsm  (s : State) : (beginSearch s).fsm = .searchId := rfl

@[simp] theorem beginSearch_sr  (s : State) : (beginSearch s).sr = 0 := rfl

@[simp] theorem beginSearch_nbits  (s : State) : (beginSearch s).nbits = s.nbits := rfl

@[simp] theorem beginSearch_op  (s : State) : (beginSearch s).op = s.op := rfl

@[simp] theorem beginSearch_seek  (s : State) : (beginSearch s).seek = s.seek := rfl

@[simp] theorem beginSearch_cap  (s : State) : (beginSearch s).cap = s.cap := rfl

@[simp] theorem beginSearch_deletedSeen  (s : State) : (beginSearch s).deletedSeen = s.deletedSeen := rfl

@[simp] theorem beginSearch_indexCount  (s : State) : (beginSearch s).indexCount = 0 := rfl

@[simp] theorem beginSearch_wr  (s : State) : (beginSearch s).wr = s.wr := rfl

@[simp] theorem beginSearch_unload  (s : State) : (beginSearch s).unload = s.unload := rfl

@[simp] theorem beginSearch_lastIndex  (s : State) : (beginSearch s).lastIndex = s.lastIndex := rfl

@[simp] theorem beginSearch_timer  (s : State) : (beginSearch s).timer = s.timer := rfl

@[simp] theorem beginSearch_cont  (s : State) : (beginSearch s).cont = s.cont := rfl

@[simp] theorem beginSearch_discs  (s : State) : (beginSearch s).discs = s.discs := rfl

@[simp] theorem beginSearch_drive0  (s : State) : (beginSearch s).drive0 = s.drive0 := rfl

@[simp] theorem beginSearch_drive1  (s : State) : (beginSearch s).drive1 = s.drive1 := rfl

@[simp] theorem beginSearch_epoch  (s : State) : (beginSearch s).epoch = s.epoch := rfl

@[simp] theorem beginSearch_nextSeq  (s : State) : (beginSearch s).nextSeq = s.nextSeq := rfl

@[simp] theorem beginSearch_intLine  (s : State) : (beginSearch s).intLine = s.intLine := rfl

@[simp] theorem beginSearch_readData  (s : State) : (beginSearch s).readData = s.readData := rfl

@[simp] theorem beginSearch_host  (s : State) : (beginSearch s).host = s.host := rfl

@[simp] theorem beginSearch_draws  (s : State) : (beginSearch s).draws = s.draws := rfl

@[simp] theorem beginSearch_drive  (s : State) (m : DriveId) : (beginSearch s).drive m = s.drive m := by
  cases m <;> rfl

@[simp] theorem beginSearch_cur  (s : State) : (beginSearch s).cur = s.cur := rfl

@[simp] theorem beginSearch_headLoaded  (s : State) : (beginSearch s).headLoaded = s.headLoaded := rfl

@[simp] theorem beginSearch_writeGate  (s : State) : (beginSearch s).writeGate = s.writeGate := rfl

@[simp] theorem beginSearch_command  (s : State) : (beginSearch s).command = s.command := rfl

/-! ## Outcomes -/

@[simp] theorem andThen_next (s : State) (f : State → Result) : andThen (.next s) f = f s := rfl

@[simp] theorem andThen_fault (e : Fault) (f : State → Result) : andThen (.fault e) f = .fault e := rfl

@[simp] theorem andThen_refused (e : Refusal) (f : State → Result) : andThen (.refused e) f = .refused e := rfl

/-- What a composed operation that ends in a next state went through. -/
theorem andThen_eq_next {r : Result} {f : State → Result} {t : State} :
    andThen r f = .next t ↔ ∃ s, r = .next s ∧ f s = .next t := by
  cases r <;> simp [andThen]

end Sys2Proof.Machine
end

