-- ==== Sys2Proof/Laws/Ops.lean ====
section
/-! SUPPORT. What the shared operations can do: for each, one lemma that names everything it changes, and the small
lemmas for what it leaves. -/

namespace Sys2Proof.Machine

/-! ## The head's movement -/

/-- Moving a head changes its drive and the discs only. -/
theorem moveHead_frame (n : DriveId) (sd : Side) (phys : Nat) (s : State) :
    ∃ ds d0 d1, moveHead n sd phys s = { s with discs := ds, drive0 := d0, drive1 := d1 } := by
  unfold moveHead flushDisc onDisc
  split <;> cases n <;> exact ⟨_, _, _, rfl⟩

/-- A side change changes its drive and the discs only. -/
theorem setSide_frame (n : DriveId) (sd : Side) (s : State) :
    ∃ ds d0 d1, setSide n sd s = { s with discs := ds, drive0 := d0, drive1 := d1 } := by
  unfold setSide
  split
  · exact ⟨_, _, _, rfl⟩
  · exact moveHead_frame n sd _ s

/-- A step changes its drive and the discs only. -/
theorem seekTrack_frame (n : DriveId) (dirIn : Bool) (s : State) :
    ∃ ds d0 d1, seekTrack n dirIn s = { s with discs := ds, drive0 := d0, drive1 := d1 } :=
  moveHead_frame n _ _ s

/-- The head's advance changes its drive and the discs only. -/
theorem advanceHead_frame (n : DriveId) (len : Nat) (s : State) :
    ∃ ds d0 d1, advanceHead n len s = { s with discs := ds, drive0 := d0, drive1 := d1 } := by
  unfold advanceHead flushDisc onDisc
  split
  · split <;> cases n <;> exact ⟨_, _, _, rfl⟩
  · cases n <;> exact ⟨_, _, _, rfl⟩

/-- Recording changes the discs only. -/
theorem writePulses_frame {n : DriveId} {w : Slots} {k : Nat} {s t : State} (h : writePulses n w k s = some t) :
    t = { s with discs := t.discs } := by
  unfold writePulses at h
  split at h
  · cases h; rfl
  · split at h
    · cases h; rfl
    · obtain ⟨x, -, rfl⟩ := Option.map_eq_some_iff.mp h
      unfold onDisc; split <;> rfl

/-! ## The output port -/

/-- `applySpin` changes the drives and the sequence counter only. -/
theorem applySpin_frame (n : DriveId) (s : State) :
    ∃ d0 d1 k, applySpin n s = { s with drive0 := d0, drive1 := d1, nextSeq := k } := by
  unfold applySpin startSpinning stopSpinning
  split
  · split
    · split
      · exact ⟨_, _, _, rfl⟩
      · cases n <;> exact ⟨_, _, _, rfl⟩
    · cases n <;> exact ⟨_, _, _, rfl⟩
  · exact ⟨_, _, _, rfl⟩

/-- `applySide` changes the drives and the discs only. -/
theorem applySide_frame (s : State) :
    ∃ ds d0 d1, applySide s = { s with discs := ds, drive0 := d0, drive1 := d1 } := by
  unfold applySide
  split
  · exact ⟨_, _, _, rfl⟩
  · next n _ =>
    split
    · exact setSide_frame n _ s
    · exact ⟨_, _, _, rfl⟩

/-- `set_drive_out` changes the port, the drives, the discs, the sequence counter and the unload countdown only. -/
theorem setDriveOut_frame (v : Byte) (s : State) :
    ∃ ds d0 d1 k u, setDriveOut v s
      = { s with
          driveOut := v &&& ~~~stepLine, discs := ds, drive0 := d0, drive1 := d1, nextSeq := k, unload := u } := by
  unfold setDriveOut
  obtain ⟨a0, a1, k1, h1⟩ := applySpin_frame .d0 { s with driveOut := v &&& ~~~stepLine }
  rw [h1]
  obtain ⟨b0, b1, k2, h2⟩ := applySpin_frame .d1
    { s with driveOut := v &&& ~~~stepLine, drive0 := a0, drive1 := a1, nextSeq := k1 }
  rw [h2]
  obtain ⟨ds, c0, c1, h3⟩ := applySide_frame
    { s with driveOut := v &&& ~~~stepLine, drive0 := b0, drive1 := b1, nextSeq := k2 }
  rw [h3]
  unfold cancelUnload
  split <;> exact ⟨_, _, _, _, _, rfl⟩

@[simp] theorem setDriveOut_cfg (v : Byte) (s : State) : (setDriveOut v s).cfg = s.cfg := by
  obtain ⟨_, _, _, _, _, h⟩ := setDriveOut_frame v s; rw [h]

@[simp] theorem setDriveOut_busy (v : Byte) (s : State) : (setDriveOut v s).busy = s.busy := by
  obtain ⟨_, _, _, _, _, h⟩ := setDriveOut_frame v s; rw [h]

@[simp] theorem setDriveOut_resultFull (v : Byte) (s : State) : (setDriveOut v s).resultFull = s.resultFull := by
  obtain ⟨_, _, _, _, _, h⟩ := setDriveOut_frame v s; rw [h]

@[simp] theorem setDriveOut_irq (v : Byte) (s : State) : (setDriveOut v s).irq = s.irq := by
  obtain ⟨_, _, _, _, _, h⟩ := setDriveOut_frame v s; rw [h]

@[simp] theorem setDriveOut_drq (v : Byte) (s : State) : (setDriveOut v s).drq = s.drq := by
  obtain ⟨_, _, _, _, _, h⟩ := setDriveOut_frame v s; rw [h]

@[simp] theorem setDriveOut_regs (v : Byte) (s : State) : (setDriveOut v s).regs = s.regs := by
  obtain ⟨_, _, _, _, _, h⟩ := setDriveOut_frame v s; rw [h]

@[simp] theorem setDriveOut_cmd (v : Byte) (s : State) : (setDriveOut v s).cmd = s.cmd := by
  obtain ⟨_, _, _, _, _, h⟩ := setDriveOut_frame v s; rw [h]

@[simp] theorem setDriveOut_params (v : Byte) (s : State) : (setDriveOut v s).params = s.params := by
  obtain ⟨_, _, _, _, _, h⟩ := setDriveOut_frame v s; rw [h]

@[simp] theorem setDriveOut_nexp (v : Byte) (s : State) : (setDriveOut v s).nexp = s.nexp := by
  obtain ⟨_, _, _, _, _, h⟩ := setDriveOut_frame v s; rw [h]

@[simp] theorem setDriveOut_result (v : Byte) (s : State) : (setDriveOut v s).result = s.result := by
  obtain ⟨_, _, _, _, _, h⟩ := setDriveOut_frame v s; rw [h]

@[simp] theorem setDriveOut_data (v : Byte) (s : State) : (setDriveOut v s).data = s.data := by
  obtain ⟨_, _, _, _, _, h⟩ := setDriveOut_frame v s; rw [h]

@[simp] theorem setDriveOut_driveOut (v : Byte) (s : State) : (setDriveOut v s).driveOut = v &&& ~~~stepLine := by
  obtain ⟨_, _, _, _, _, h⟩ := setDriveOut_frame v s; rw [h]

@[simp] theorem setDriveOut_fsm (v : Byte) (s : State) : (setDriveOut v s).fsm = s.fsm := by
  obtain ⟨_, _, _, _, _, h⟩ := setDriveOut_frame v s; rw [h]

@[simp] theorem setDriveOut_sr (v : Byte) (s : State) : (setDriveOut v s).sr = s.sr := by
  obtain ⟨_, _, _, _, _, h⟩ := setDriveOut_frame v s; rw [h]

@[simp] theorem setDriveOut_nbits (v : Byte) (s : State) : (setDriveOut v s).nbits = s.nbits := by
  obtain ⟨_, _, _, _, _, h⟩ := setDriveOut_frame v s; rw [h]

@[simp] theorem setDriveOut_op (v : Byte) (s : State) : (setDriveOut v s).op = s.op := by
  obtain ⟨_, _, _, _, _, h⟩ := setDriveOut_frame v s; rw [h]

@[simp] theorem setDriveOut_seek (v : Byte) (s : State) : (setDriveOut v s).seek = s.seek := by
  obtain ⟨_, _, _, _, _, h⟩ := setDriveOut_frame v s; rw [h]

@[simp] theorem setDriveOut_cap (v : Byte) (s : State) : (setDriveOut v s).cap = s.cap := by
  obtain ⟨_, _, _, _, _, h⟩ := setDriveOut_frame v s; rw [h]

@[simp] theorem setDriveOut_deletedSeen (v : Byte) (s : State) : (setDriveOut v s).deletedSeen = s.deletedSeen := by
  obtain ⟨_, _, _, _, _, h⟩ := setDriveOut_frame v s; rw [h]

@[simp] theorem setDriveOut_indexCount (v : Byte) (s : State) : (setDriveOut v s).indexCount = s.indexCount := by
  obtain ⟨_, _, _, _, _, h⟩ := setDriveOut_frame v s; rw [h]

@[simp] theorem setDriveOut_wr (v : Byte) (s : State) : (setDriveOut v s).wr = s.wr := by
  obtain ⟨_, _, _, _, _, h⟩ := setDriveOut_frame v s; rw [h]

@[simp] theorem setDriveOut_lastIndex (v : Byte) (s : State) : (setDriveOut v s).lastIndex = s.lastIndex := by
  obtain ⟨_, _, _, _, _, h⟩ := setDriveOut_frame v s; rw [h]

@[simp] theorem setDriveOut_timer (v : Byte) (s : State) : (setDriveOut v s).timer = s.timer := by
  obtain ⟨_, _, _, _, _, h⟩ := setDriveOut_frame v s; rw [h]

@[simp] theorem setDriveOut_cont (v : Byte) (s : State) : (setDriveOut v s).cont = s.cont := by
  obtain ⟨_, _, _, _, _, h⟩ := setDriveOut_frame v s; rw [h]

@[simp] theorem setDriveOut_epoch (v : Byte) (s : State) : (setDriveOut v s).epoch = s.epoch := by
  obtain ⟨_, _, _, _, _, h⟩ := setDriveOut_frame v s; rw [h]

@[simp] theorem setDriveOut_intLine (v : Byte) (s : State) : (setDriveOut v s).intLine = s.intLine := by
  obtain ⟨_, _, _, _, _, h⟩ := setDriveOut_frame v s; rw [h]

@[simp] theorem setDriveOut_readData (v : Byte) (s : State) : (setDriveOut v s).readData = s.readData := by
  obtain ⟨_, _, _, _, _, h⟩ := setDriveOut_frame v s; rw [h]

@[simp] theorem setDriveOut_host (v : Byte) (s : State) : (setDriveOut v s).host = s.host := by
  obtain ⟨_, _, _, _, _, h⟩ := setDriveOut_frame v s; rw [h]

@[simp] theorem setDriveOut_draws (v : Byte) (s : State) : (setDriveOut v s).draws = s.draws := by
  obtain ⟨_, _, _, _, _, h⟩ := setDriveOut_frame v s; rw [h]

@[simp] theorem setDriveOut_command (v : Byte) (s : State) : (setDriveOut v s).command = s.command := by
  simp [State.command]

@[simp] theorem raiseLines_cfg (m : Byte) (s : State) : (raiseLines m s).cfg = s.cfg :=
  setDriveOut_cfg _ s

@[simp] theorem raiseLines_busy (m : Byte) (s : State) : (raiseLines m s).busy = s.busy :=
  setDriveOut_busy _ s

@[simp] theorem raiseLines_resultFull (m : Byte) (s : State) : (raiseLines m s).resultFull = s.resultFull :=
  setDriveOut_resultFull _ s

@[simp] theorem raiseLines_irq (m : Byte) (s : State) : (raiseLines m s).irq = s.irq :=
  setDriveOut_irq _ s

@[simp] theorem raiseLines_drq (m : Byte) (s : State) : (raiseLines m s).drq = s.drq :=
  setDriveOut_drq _ s

@[simp] theorem raiseLines_regs (m : Byte) (s : State) : (raiseLines m s).regs = s.regs :=
  setDriveOut_regs _ s

@[simp] theorem raiseLines_cmd (m : Byte) (s : State) : (raiseLines m s).cmd = s.cmd :=
  setDriveOut_cmd _ s

@[simp] theorem raiseLines_params (m : Byte) (s : State) : (raiseLines m s).params = s.params :=
  setDriveOut_params _ s

@[simp] theorem raiseLines_nexp (m : Byte) (s : State) : (raiseLines m s).nexp = s.nexp :=
  setDriveOut_nexp _ s

@[simp] theorem raiseLines_result (m : Byte) (s : State) : (raiseLines m s).result = s.result :=
  setDriveOut_result _ s

@[simp] theorem raiseLines_data (m : Byte) (s : State) : (raiseLines m s).data = s.data :=
  setDriveOut_data _ s

@[simp] theorem raiseLines_driveOut (m : Byte) (s : State) : (raiseLines m s).driveOut = (s.driveOut ||| m) &&& ~~~stepLine :=
  setDriveOut_driveOut _ s

@[simp] theorem raiseLines_fsm (m : Byte) (s : State) : (raiseLines m s).fsm = s.fsm :=
  setDriveOut_fsm _ s

@[simp] theorem raiseLines_sr (m : Byte) (s : State) : (raiseLines m s).sr = s.sr :=
  setDriveOut_sr _ s

@[simp] theorem raiseLines_nbits (m : Byte) (s : State) : (raiseLines m s).nbits = s.nbits :=
  setDriveOut_nbits _ s

@[simp] theorem raiseLines_op (m : Byte) (s : State) : (raiseLines m s).op = s.op :=
  setDriveOut_op _ s

@[simp] theorem raiseLines_seek (m : Byte) (s : State) : (raiseLines m s).seek = s.seek :=
  setDriveOut_seek _ s

@[simp] theorem raiseLines_cap (m : Byte) (s : State) : (raiseLines m s).cap = s.cap :=
  setDriveOut_cap _ s

@[simp] theorem raiseLines_deletedSeen (m : Byte) (s : State) : (raiseLines m s).deletedSeen = s.deletedSeen :=
  setDriveOut_deletedSeen _ s

@[simp] theorem raiseLines_indexCount (m : Byte) (s : State) : (raiseLines m s).indexCount = s.indexCount :=
  setDriveOut_indexCount _ s

@[simp] theorem raiseLines_wr (m : Byte) (s : State) : (raiseLines m s).wr = s.wr :=
  setDriveOut_wr _ s

@[simp] theorem raiseLines_lastIndex (m : Byte) (s : State) : (raiseLines m s).lastIndex = s.lastIndex :=
  setDriveOut_lastIndex _ s

@[simp] theorem raiseLines_timer (m : Byte) (s : State) : (raiseLines m s).timer = s.timer :=
  setDriveOut_timer _ s

@[simp] theorem raiseLines_cont (m : Byte) (s : State) : (raiseLines m s).cont = s.cont :=
  setDriveOut_cont _ s

@[simp] theorem raiseLines_epoch (m : Byte) (s : State) : (raiseLines m s).epoch = s.epoch :=
  setDriveOut_epoch _ s

@[simp] theorem raiseLines_intLine (m : Byte) (s : State) : (raiseLines m s).intLine = s.intLine :=
  setDriveOut_intLine _ s

@[simp] theorem raiseLines_readData (m : Byte) (s : State) : (raiseLines m s).readData = s.readData :=
  setDriveOut_readData _ s

@[simp] theorem raiseLines_host (m : Byte) (s : State) : (raiseLines m s).host = s.host :=
  setDriveOut_host _ s

@[simp] theorem raiseLines_draws (m : Byte) (s : State) : (raiseLines m s).draws = s.draws :=
  setDriveOut_draws _ s

@[simp] theorem raiseLines_command (m : Byte) (s : State) : (raiseLines m s).command = s.command :=
  setDriveOut_command _ s

@[simp] theorem clearLines_cfg (m : Byte) (s : State) : (clearLines m s).cfg = s.cfg :=
  setDriveOut_cfg _ s

@[simp] theorem clearLines_busy (m : Byte) (s : State) : (clearLines m s).busy = s.busy :=
  setDriveOut_busy _ s

@[simp] theorem clearLines_resultFull (m : Byte) (s : State) : (clearLines m s).resultFull = s.resultFull :=
  setDriveOut_resultFull _ s

@[simp] theorem clearLines_irq (m : Byte) (s : State) : (clearLines m s).irq = s.irq :=
  setDriveOut_irq _ s

@[simp] theorem clearLines_drq (m : Byte) (s : State) : (clearLines m s).drq = s.drq :=
  setDriveOut_drq _ s

@[simp] theorem clearLines_regs (m : Byte) (s : State) : (clearLines m s).regs = s.regs :=
  setDriveOut_regs _ s

@[simp] theorem clearLines_cmd (m : Byte) (s : State) : (clearLines m s).cmd = s.cmd :=
  setDriveOut_cmd _ s

@[simp] theorem clearLines_params (m : Byte) (s : State) : (clearLines m s).params = s.params :=
  setDriveOut_params _ s

@[simp] theorem clearLines_nexp (m : Byte) (s : State) : (clearLines m s).nexp = s.nexp :=
  setDriveOut_nexp _ s

@[simp] theorem clearLines_result (m : Byte) (s : State) : (clearLines m s).result = s.result :=
  setDriveOut_result _ s

@[simp] theorem clearLines_data (m : Byte) (s : State) : (clearLines m s).data = s.data :=
  setDriveOut_data _ s

@[simp] theorem clearLines_driveOut (m : Byte) (s : State) : (clearLines m s).driveOut = (s.driveOut &&& ~~~m) &&& ~~~stepLine :=
  setDriveOut_driveOut _ s

@[simp] theorem clearLines_fsm (m : Byte) (s : State) : (clearLines m s).fsm = s.fsm :=
  setDriveOut_fsm _ s

@[simp] theorem clearLines_sr (m : Byte) (s : State) : (clearLines m s).sr = s.sr :=
  setDriveOut_sr _ s

@[simp] theorem clearLines_nbits (m : Byte) (s : State) : (clearLines m s).nbits = s.nbits :=
  setDriveOut_nbits _ s

@[simp] theorem clearLines_op (m : Byte) (s : State) : (clearLines m s).op = s.op :=
  setDriveOut_op _ s

@[simp] theorem clearLines_seek (m : Byte) (s : State) : (clearLines m s).seek = s.seek :=
  setDriveOut_seek _ s

@[simp] theorem clearLines_cap (m : Byte) (s : State) : (clearLines m s).cap = s.cap :=
  setDriveOut_cap _ s

@[simp] theorem clearLines_deletedSeen (m : Byte) (s : State) : (clearLines m s).deletedSeen = s.deletedSeen :=
  setDriveOut_deletedSeen _ s

@[simp] theorem clearLines_indexCount (m : Byte) (s : State) : (clearLines m s).indexCount = s.indexCount :=
  setDriveOut_indexCount _ s

@[simp] theorem clearLines_wr (m : Byte) (s : State) : (clearLines m s).wr = s.wr :=
  setDriveOut_wr _ s

@[simp] theorem clearLines_lastIndex (m : Byte) (s : State) : (clearLines m s).lastIndex = s.lastIndex :=
  setDriveOut_lastIndex _ s

@[simp] theorem clearLines_timer (m : Byte) (s : State) : (clearLines m s).timer = s.timer :=
  setDriveOut_timer _ s

@[simp] theorem clearLines_cont (m : Byte) (s : State) : (clearLines m s).cont = s.cont :=
  setDriveOut_cont _ s

@[simp] theorem clearLines_epoch (m : Byte) (s : State) : (clearLines m s).epoch = s.epoch :=
  setDriveOut_epoch _ s

@[simp] theorem clearLines_intLine (m : Byte) (s : State) : (clearLines m s).intLine = s.intLine :=
  setDriveOut_intLine _ s

@[simp] theorem clearLines_readData (m : Byte) (s : State) : (clearLines m s).readData = s.readData :=
  setDriveOut_readData _ s

@[simp] theorem clearLines_host (m : Byte) (s : State) : (clearLines m s).host = s.host :=
  setDriveOut_host _ s

@[simp] theorem clearLines_draws (m : Byte) (s : State) : (clearLines m s).draws = s.draws :=
  setDriveOut_draws _ s

@[simp] theorem clearLines_command (m : Byte) (s : State) : (clearLines m s).command = s.command :=
  setDriveOut_command _ s

/-! ## Completion -/

/-- `start_unload` changes the port, the drives, the discs, the sequence counter and the unload countdown only. -/
theorem startUnload_frame (s : State) :
    ∃ o ds d0 d1 k u, startUnload s
      = { s with driveOut := o, discs := ds, drive0 := d0, drive1 := d1, nextSeq := k, unload := u } := by
  unfold startUnload clearLines
  split
  · exact ⟨_, _, _, _, _, _, rfl⟩
  · split
    · obtain ⟨ds, d0, d1, k, u, h⟩ := setDriveOut_frame (s.driveOut &&& ~~~loadHeadLine) s
      exact ⟨_, _, _, _, _, _, h⟩
    · exact ⟨_, _, _, _, _, _, rfl⟩

/-- What `latch` sets, and the rest of what it may change. -/
theorem latch_frame (code : Byte) (s : State) :
    ∃ o ds d0 d1 k u, latch code s
      = { s with
          fsm := .idle, drq := false, result := code, busy := false, resultFull := true, irq := true
          intLine := true, driveOut := o, discs := ds, drive0 := d0, drive1 := d1, nextSeq := k, unload := u } := by
  obtain ⟨o, ds, d0, d1, k, u, h⟩ := startUnload_frame
    (setIrq true { s with fsm := .idle, drq := false, result := code, busy := false, resultFull := true })
  exact ⟨o, ds, d0, d1, k, u, h⟩

@[simp] theorem startUnload_cfg  (s : State) : (startUnload s).cfg = s.cfg := by
  obtain ⟨_, _, _, _, _, _, h⟩ := startUnload_frame s; rw [h]

@[simp] theorem startUnload_busy  (s : State) : (startUnload s).busy = s.busy := by
  obtain ⟨_, _, _, _, _, _, h⟩ := startUnload_frame s; rw [h]

@[simp] theorem startUnload_resultFull  (s : State) : (startUnload s).resultFull = s.resultFull := by
  obtain ⟨_, _, _, _, _, _, h⟩ := startUnload_frame s; rw [h]

@[simp] theorem startUnload_irq  (s : State) : (startUnload s).irq = s.irq := by
  obtain ⟨_, _, _, _, _, _, h⟩ := startUnload_frame s; rw [h]

@[simp] theorem startUnload_drq  (s : State) : (startUnload s).drq = s.drq := by
  obtain ⟨_, _, _, _, _, _, h⟩ := startUnload_frame s; rw [h]

@[simp] theorem startUnload_regs  (s : State) : (startUnload s).regs = s.regs := by
  obtain ⟨_, _, _, _, _, _, h⟩ := startUnload_frame s; rw [h]

@[simp] theorem startUnload_cmd  (s : State) : (startUnload s).cmd = s.cmd := by
  obtain ⟨_, _, _, _, _, _, h⟩ := startUnload_frame s; rw [h]

@[simp] theorem startUnload_params  (s : State) : (startUnload s).params = s.params := by
  obtain ⟨_, _, _, _, _, _, h⟩ := startUnload_frame s; rw [h]

@[simp] theorem startUnload_nexp  (s : State) : (startUnload s).nexp = s.nexp := by
  obtain ⟨_, _, _, _, _, _, h⟩ := startUnload_frame s; rw [h]

@[simp] theorem startUnload_result  (s : State) : (startUnload s).result = s.result := by
  obtain ⟨_, _, _, _, _, _, h⟩ := startUnload_frame s; rw [h]

@[simp] theorem startUnload_data  (s : State) : (startUnload s).data = s.data := by
  obtain ⟨_, _, _, _, _, _, h⟩ := startUnload_frame s; rw [h]

@[simp] theorem startUnload_fsm  (s : State) : (startUnload s).fsm = s.fsm := by
  obtain ⟨_, _, _, _, _, _, h⟩ := startUnload_frame s; rw [h]

@[simp] theorem startUnload_sr  (s : State) : (startUnload s).sr = s.sr := by
  obtain ⟨_, _, _, _, _, _, h⟩ := startUnload_frame s; rw [h]

@[simp] theorem startUnload_nbits  (s : State) : (startUnload s).nbits = s.nbits := by
  obtain ⟨_, _, _, _, _, _, h⟩ := startUnload_frame s; rw [h]

@[simp] theorem startUnload_op  (s : State) : (startUnload s).op = s.op := by
  obtain ⟨_, _, _, _, _, _, h⟩ := startUnload_frame s; rw [h]

@[simp] theorem startUnload_seek  (s : State) : (startUnload s).seek = s.seek := by
  obtain ⟨_, _, _, _, _, _, h⟩ := startUnload_frame s; rw [h]

@[simp] theorem startUnload_cap  (s : State) : (startUnload s).cap = s.cap := by
  obtain ⟨_, _, _, _, _, _, h⟩ := startUnload_frame s; rw [h]

@[simp] theorem startUnload_deletedSeen  (s : State) : (startUnload s).deletedSeen = s.deletedSeen := by
  obtain ⟨_, _, _, _, _, _, h⟩ := startUnload_frame s; rw [h]

@[simp] theorem startUnload_indexCount  (s : State) : (startUnload s).indexCount = s.indexCount := by
  obtain ⟨_, _, _, _, _, _, h⟩ := startUnload_frame s; rw [h]

@[simp] theorem startUnload_wr  (s : State) : (startUnload s).wr = s.wr := by
  obtain ⟨_, _, _, _, _, _, h⟩ := startUnload_frame s; rw [h]

@[simp] theorem startUnload_lastIndex  (s : State) : (startUnload s).lastIndex = s.lastIndex := by
  obtain ⟨_, _, _, _, _, _, h⟩ := startUnload_frame s; rw [h]

@[simp] theorem startUnload_timer  (s : State) : (startUnload s).timer = s.timer := by
  obtain ⟨_, _, _, _, _, _, h⟩ := startUnload_frame s; rw [h]

@[simp] theorem startUnload_cont  (s : State) : (startUnload s).cont = s.cont := by
  obtain ⟨_, _, _, _, _, _, h⟩ := startUnload_frame s; rw [h]

@[simp] theorem startUnload_epoch  (s : State) : (startUnload s).epoch = s.epoch := by
  obtain ⟨_, _, _, _, _, _, h⟩ := startUnload_frame s; rw [h]

@[simp] theorem startUnload_intLine  (s : State) : (startUnload s).intLine = s.intLine := by
  obtain ⟨_, _, _, _, _, _, h⟩ := startUnload_frame s; rw [h]

@[simp] theorem startUnload_readData  (s : State) : (startUnload s).readData = s.readData := by
  obtain ⟨_, _, _, _, _, _, h⟩ := startUnload_frame s; rw [h]

@[simp] theorem startUnload_host  (s : State) : (startUnload s).host = s.host := by
  obtain ⟨_, _, _, _, _, _, h⟩ := startUnload_frame s; rw [h]

@[simp] theorem startUnload_draws  (s : State) : (startUnload s).draws = s.draws := by
  obtain ⟨_, _, _, _, _, _, h⟩ := startUnload_frame s; rw [h]

@[simp] theorem startUnload_command  (s : State) : (startUnload s).command = s.command := by
  simp [State.command]

@[simp] theorem latch_cfg (code : Byte) (s : State) : (latch code s).cfg = s.cfg := by
  obtain ⟨_, _, _, _, _, _, h⟩ := latch_frame code s; rw [h]

@[simp] theorem latch_busy (code : Byte) (s : State) : (latch code s).busy = false := by
  obtain ⟨_, _, _, _, _, _, h⟩ := latch_frame code s; rw [h]

@[simp] theorem latch_resultFull (code : Byte) (s : State) : (latch code s).resultFull = true := by
  obtain ⟨_, _, _, _, _, _, h⟩ := latch_frame code s; rw [h]

@[simp] theorem latch_irq (code : Byte) (s : State) : (latch code s).irq = true := by
  obtain ⟨_, _, _, _, _, _, h⟩ := latch_frame code s; rw [h]

@[simp] theorem latch_drq (code : Byte) (s : State) : (latch code s).drq = false := by
  obtain ⟨_, _, _, _, _, _, h⟩ := latch_frame code s; rw [h]

@[simp] theorem latch_regs (code : Byte) (s : State) : (latch code s).regs = s.regs := by
  obtain ⟨_, _, _, _, _, _, h⟩ := latch_frame code s; rw [h]

@[simp] theorem latch_cmd (code : Byte) (s : State) : (latch code s).cmd = s.cmd := by
  obtain ⟨_, _, _, _, _, _, h⟩ := latch_frame code s; rw [h]

@[simp] theorem latch_params (code : Byte) (s : State) : (latch code s).params = s.params := by
  obtain ⟨_, _, _, _, _, _, h⟩ := latch_frame code s; rw [h]

@[simp] theorem latch_nexp (code : Byte) (s : State) : (latch code s).nexp = s.nexp := by
  obtain ⟨_, _, _, _, _, _, h⟩ := latch_frame code s; rw [h]

@[simp] theorem latch_result (code : Byte) (s : State) : (latch code s).result = code := by
  obtain ⟨_, _, _, _, _, _, h⟩ := latch_frame code s; rw [h]

@[simp] theorem latch_data (code : Byte) (s : State) : (latch code s).data = s.data := by
  obtain ⟨_, _, _, _, _, _, h⟩ := latch_frame code s; rw [h]

@[simp] theorem latch_fsm (code : Byte) (s : State) : (latch code s).fsm = .idle := by
  obtain ⟨_, _, _, _, _, _, h⟩ := latch_frame code s; rw [h]

@[simp] theorem latch_sr (code : Byte) (s : State) : (latch code s).sr = s.sr := by
  obtain ⟨_, _, _, _, _, _, h⟩ := latch_frame code s; rw [h]

@[simp] theorem latch_nbits (code : Byte) (s : State) : (latch code s).nbits = s.nbits := by
  obtain ⟨_, _, _, _, _, _, h⟩ := latch_frame code s; rw [h]

@[simp] theorem latch_op (code : Byte) (s : State) : (latch code s).op = s.op := by
  obtain ⟨_, _, _, _, _, _, h⟩ := latch_frame code s; rw [h]

@[simp] theorem latch_seek (code : Byte) (s : State) : (latch code s).seek = s.seek := by
  obtain ⟨_, _, _, _, _, _, h⟩ := latch_frame code s; rw [h]

@[simp] theorem latch_cap (code : Byte) (s : State) : (latch code s).cap = s.cap := by
  obtain ⟨_, _, _, _, _, _, h⟩ := latch_frame code s; rw [h]

@[simp] theorem latch_deletedSeen (code : Byte) (s : State) : (latch code s).deletedSeen = s.deletedSeen := by
  obtain ⟨_, _, _, _, _, _, h⟩ := latch_frame code s; rw [h]

@[simp] theorem latch_indexCount (code : Byte) (s : State) : (latch code s).indexCount = s.indexCount := by
  obtain ⟨_, _, _, _, _, _, h⟩ := latch_frame code s; rw [h]

@[simp] theorem latch_wr (code : Byte) (s : State) : (latch code s).wr = s.wr := by
  obtain ⟨_, _, _, _, _, _, h⟩ := latch_frame code s; rw [h]

@[simp] theorem latch_lastIndex (code : Byte) (s : State) : (latch code s).lastIndex = s.lastIndex := by
  obtain ⟨_, _, _, _, _, _, h⟩ := latch_frame code s; rw [h]

@[simp] theorem latch_timer (code : Byte) (s : State) : (latch code s).timer = s.timer := by
  obtain ⟨_, _, _, _, _, _, h⟩ := latch_frame code s; rw [h]

@[simp] theorem latch_cont (code : Byte) (s : State) : (latch code s).cont = s.cont := by
  obtain ⟨_, _, _, _, _, _, h⟩ := latch_frame code s; rw [h]

@[simp] theorem latch_epoch (code : Byte) (s : State) : (latch code s).epoch = s.epoch := by
  obtain ⟨_, _, _, _, _, _, h⟩ := latch_frame code s; rw [h]

@[simp] theorem latch_intLine (code : Byte) (s : State) : (latch code s).intLine = true := by
  obtain ⟨_, _, _, _, _, _, h⟩ := latch_frame code s; rw [h]

@[simp] theorem latch_readData (code : Byte) (s : State) : (latch code s).readData = s.readData := by
  obtain ⟨_, _, _, _, _, _, h⟩ := latch_frame code s; rw [h]

@[simp] theorem latch_host (code : Byte) (s : State) : (latch code s).host = s.host := by
  obtain ⟨_, _, _, _, _, _, h⟩ := latch_frame code s; rw [h]

@[simp] theorem latch_draws (code : Byte) (s : State) : (latch code s).draws = s.draws := by
  obtain ⟨_, _, _, _, _, _, h⟩ := latch_frame code s; rw [h]

@[simp] theorem latch_command (code : Byte) (s : State) : (latch code s).command = s.command := by
  simp [State.command]

/-- What `complete` may change. Everything else stays. -/
theorem complete_frame (code : Byte) (s : State) :
    ∃ o ds d0 d1 k u f q r b rf i l tm c, complete code s
      = { s with
          fsm := f, drq := q, result := r, busy := b, resultFull := rf, irq := i, intLine := l, timer := tm, cont := c
          driveOut := o, discs := ds, drive0 := d0, drive1 := d1, nextSeq := k, unload := u } := by
  obtain ⟨ds, d0, d1, k, u, h⟩ := setDriveOut_frame (s.driveOut &&& ~~~writeGateLine) s
  unfold complete clearLines
  rw [h]
  dsimp only
  split
  · exact ⟨_, _, _, _, _, _, _, _, _, _, _, _, _, _, _, rfl⟩
  · generalize completionCode code _ = cc
    obtain ⟨o', es, e0, e1, k', u', h'⟩ := latch_frame cc
      { s with
        driveOut := (s.driveOut &&& ~~~writeGateLine) &&& ~~~stepLine, discs := ds, drive0 := d0, drive1 := d1
        nextSeq := k, unload := u, timer := none, cont := .none }
    unfold State.disarm
    rw [cancel_timer, h']
    exact ⟨_, _, _, _, _, _, _, _, _, _, _, _, _, _, _, rfl⟩

@[simp] theorem complete_cfg (code : Byte) (s : State) : (complete code s).cfg = s.cfg := by
  obtain ⟨_, _, _, _, _, _, _, _, _, _, _, _, _, _, _, h⟩ := complete_frame code s; rw [h]

@[simp] theorem complete_regs (code : Byte) (s : State) : (complete code s).regs = s.regs := by
  obtain ⟨_, _, _, _, _, _, _, _, _, _, _, _, _, _, _, h⟩ := complete_frame code s; rw [h]

@[simp] theorem complete_cmd (code : Byte) (s : State) : (complete code s).cmd = s.cmd := by
  obtain ⟨_, _, _, _, _, _, _, _, _, _, _, _, _, _, _, h⟩ := complete_frame code s; rw [h]

@[simp] theorem complete_params (code : Byte) (s : State) : (complete code s).params = s.params := by
  obtain ⟨_, _, _, _, _, _, _, _, _, _, _, _, _, _, _, h⟩ := complete_frame code s; rw [h]

@[simp] theorem complete_nexp (code : Byte) (s : State) : (complete code s).nexp = s.nexp := by
  obtain ⟨_, _, _, _, _, _, _, _, _, _, _, _, _, _, _, h⟩ := complete_frame code s; rw [h]

@[simp] theorem complete_data (code : Byte) (s : State) : (complete code s).data = s.data := by
  obtain ⟨_, _, _, _, _, _, _, _, _, _, _, _, _, _, _, h⟩ := complete_frame code s; rw [h]

@[simp] theorem complete_sr (code : Byte) (s : State) : (complete code s).sr = s.sr := by
  obtain ⟨_, _, _, _, _, _, _, _, _, _, _, _, _, _, _, h⟩ := complete_frame code s; rw [h]

@[simp] theorem complete_nbits (code : Byte) (s : State) : (complete code s).nbits = s.nbits := by
  obtain ⟨_, _, _, _, _, _, _, _, _, _, _, _, _, _, _, h⟩ := complete_frame code s; rw [h]

@[simp] theorem complete_op (code : Byte) (s : State) : (complete code s).op = s.op := by
  obtain ⟨_, _, _, _, _, _, _, _, _, _, _, _, _, _, _, h⟩ := complete_frame code s; rw [h]

@[simp] theorem complete_seek (code : Byte) (s : State) : (complete code s).seek = s.seek := by
  obtain ⟨_, _, _, _, _, _, _, _, _, _, _, _, _, _, _, h⟩ := complete_frame code s; rw [h]

@[simp] theorem complete_cap (code : Byte) (s : State) : (complete code s).cap = s.cap := by
  obtain ⟨_, _, _, _, _, _, _, _, _, _, _, _, _, _, _, h⟩ := complete_frame code s; rw [h]

@[simp] theorem complete_deletedSeen (code : Byte) (s : State) : (complete code s).deletedSeen = s.deletedSeen := by
  obtain ⟨_, _, _, _, _, _, _, _, _, _, _, _, _, _, _, h⟩ := complete_frame code s; rw [h]

@[simp] theorem complete_indexCount (code : Byte) (s : State) : (complete code s).indexCount = s.indexCount := by
  obtain ⟨_, _, _, _, _, _, _, _, _, _, _, _, _, _, _, h⟩ := complete_frame code s; rw [h]

@[simp] theorem complete_wr (code : Byte) (s : State) : (complete code s).wr = s.wr := by
  obtain ⟨_, _, _, _, _, _, _, _, _, _, _, _, _, _, _, h⟩ := complete_frame code s; rw [h]

@[simp] theorem complete_lastIndex (code : Byte) (s : State) : (complete code s).lastIndex = s.lastIndex := by
  obtain ⟨_, _, _, _, _, _, _, _, _, _, _, _, _, _, _, h⟩ := complete_frame code s; rw [h]

@[simp] theorem complete_epoch (code : Byte) (s : State) : (complete code s).epoch = s.epoch := by
  obtain ⟨_, _, _, _, _, _, _, _, _, _, _, _, _, _, _, h⟩ := complete_frame code s; rw [h]

@[simp] theorem complete_readData (code : Byte) (s : State) : (complete code s).readData = s.readData := by
  obtain ⟨_, _, _, _, _, _, _, _, _, _, _, _, _, _, _, h⟩ := complete_frame code s; rw [h]

@[simp] theorem complete_host (code : Byte) (s : State) : (complete code s).host = s.host := by
  obtain ⟨_, _, _, _, _, _, _, _, _, _, _, _, _, _, _, h⟩ := complete_frame code s; rw [h]

@[simp] theorem complete_draws (code : Byte) (s : State) : (complete code s).draws = s.draws := by
  obtain ⟨_, _, _, _, _, _, _, _, _, _, _, _, _, _, _, h⟩ := complete_frame code s; rw [h]

@[simp] theorem complete_command (code : Byte) (s : State) : (complete code s).command = s.command := by
  simp [State.command]

/-- `complete` when results latch at once (60_exceptions.md R411). -/
theorem complete_now (code : Byte) (s : State) (h : s.cfg.completionDelay = 0) :
    complete code s = latch (completionCode code s) (clearLines writeGateLine s).disarm := by
  simp [complete, h, completionCode, State.inReadFamily]

/-- `complete` when results latch after the completion delay (60_exceptions.md R411, R412). -/
theorem complete_later (code : Byte) (s : State) (h : 0 < s.cfg.completionDelay) :
    complete code s = (clearLines writeGateLine s).disarm.waitToLatch (completionCode code s) := by
  simp [complete, h, completionCode, State.inReadFamily]

end Sys2Proof.Machine
end

