-- ==== Sys2Proof/Laws/Port.lean ====
section
/-! SUPPORT. What moving a head and a write of the output port do to each drive and its disc (40_environment.md R137,
43_command_protocol.md R207, R208), said once. -/

namespace Sys2Proof.Machine

/-! ## Drives -/

@[simp] theorem withRotation_side (d : Drive) (r : Option Armed) : (d.withRotation r).side = d.side := rfl
@[simp] theorem withRotation_phys (d : Drive) (r : Option Armed) : (d.withRotation r).phys = d.phys := rfl
@[simp] theorem withRotation_word (d : Drive) (r : Option Armed) : (d.withRotation r).word = d.word := rfl
@[simp] theorem withRotation_phase (d : Drive) (r : Option Armed) : (d.withRotation r).phase = d.phase := rfl
@[simp] theorem withRotation_disc (d : Drive) (r : Option Armed) : (d.withRotation r).disc = d.disc := rfl
@[simp] theorem withRotation_rotation (d : Drive) (r : Option Armed) : (d.withRotation r).rotation = r := rfl

@[simp] theorem withRotation_self (d : Drive) : d.withRotation d.rotation = d := rfl

@[simp] theorem movedTo_side (d : Drive) (c : Params) (o : Option Disc) (sd : Side) (p : Nat) :
    (d.movedTo c o sd p).side = sd := rfl
@[simp] theorem movedTo_phys (d : Drive) (c : Params) (o : Option Disc) (sd : Side) (p : Nat) :
    (d.movedTo c o sd p).phys = p := rfl
@[simp] theorem movedTo_disc (d : Drive) (c : Params) (o : Option Disc) (sd : Side) (p : Nat) :
    (d.movedTo c o sd p).disc = d.disc := rfl
@[simp] theorem movedTo_phase (d : Drive) (c : Params) (o : Option Disc) (sd : Side) (p : Nat) :
    (d.movedTo c o sd p).phase = d.phase := rfl
@[simp] theorem movedTo_rotation (d : Drive) (c : Params) (o : Option Disc) (sd : Side) (p : Nat) :
    (d.movedTo c o sd p).rotation = d.rotation := rfl

/-- A drive after a side change: turned if its side differs. -/
def Drive.facing (d : Drive) (c : Params) (disc : Option Disc) (sd : Side) : Drive :=
  if d.side = sd then d else d.movedTo c disc sd d.phys

@[simp] theorem facing_side (d : Drive) (c : Params) (o : Option Disc) (sd : Side) : (d.facing c o sd).side = sd := by
  unfold Drive.facing; split
  · assumption
  · rfl

theorem facing_same (d : Drive) (c : Params) (o : Option Disc) (sd : Side) (h : d.side = sd) : d.facing c o sd = d := by
  simp [Drive.facing, h]

theorem facing_other (d : Drive) (c : Params) (o : Option Disc) (sd : Side) (h : d.side ≠ sd) :
    d.facing c o sd = d.turned c o sd := by
  unfold Drive.facing; rw [if_neg h]; rfl

@[simp] theorem facing_phys (d : Drive) (c : Params) (o : Option Disc) (sd : Side) : (d.facing c o sd).phys = d.phys := by
  unfold Drive.facing; split <;> rfl

@[simp] theorem facing_disc (d : Drive) (c : Params) (o : Option Disc) (sd : Side) : (d.facing c o sd).disc = d.disc := by
  unfold Drive.facing; split <;> rfl

@[simp] theorem facing_rotation (d : Drive) (c : Params) (o : Option Disc) (sd : Side) :
    (d.facing c o sd).rotation = d.rotation := by
  unfold Drive.facing; split <;> rfl

/-! ## The head's movement -/

/-- States that agree on a drive's reference and on the discs agree on its disc. -/
theorem disc_congr {s t : State} (n : DriveId) (hd : t.discs = s.discs) (h : (t.drive n).disc = (s.drive n).disc) :
    t.disc n = s.disc n := by unfold State.disc; rw [hd, h]

@[simp] theorem flushDisc_discs (n : DriveId) (s : State) : (flushDisc n s).discs = s.discsFlushedIn n := by
  unfold flushDisc onDisc State.discsFlushedIn
  cases (s.drive n).disc <;> rfl

theorem moveHead_drive (n m : DriveId) (sd : Side) (p : Nat) (s : State) :
    (moveHead n sd p s).drive m = if m = n then (s.drive n).movedTo s.cfg (s.disc n) sd p else s.drive m := by
  unfold moveHead; rw [setDrive_drive, flushDisc_drive]

@[simp] theorem moveHead_discs (n : DriveId) (sd : Side) (p : Nat) (s : State) :
    (moveHead n sd p s).discs = s.discsFlushedIn n := by
  unfold moveHead; rw [setDrive_discs, flushDisc_discs]

theorem setSide_drive (n m : DriveId) (sd : Side) (s : State) :
    (setSide n sd s).drive m = if m = n then (s.drive n).facing s.cfg (s.disc n) sd else s.drive m := by
  unfold setSide Drive.facing
  by_cases h : (s.drive n).side = sd
  · by_cases hm : m = n <;> simp [h, hm]
  · rw [if_neg h, if_neg h, moveHead_drive]

theorem setSide_discs (n : DriveId) (sd : Side) (s : State) :
    (setSide n sd s).discs = if (s.drive n).side = sd then s.discs else s.discsFlushedIn n := by
  unfold setSide; split
  · rfl
  · exact moveHead_discs _ _ _ _

theorem setSide_nextSeq (n : DriveId) (sd : Side) (s : State) : (setSide n sd s).nextSeq = s.nextSeq := by
  obtain ⟨_, _, _, h⟩ := setSide_frame n sd s; rw [h]

/-! ## The lines, one by one -/

/-- The rotation timer of drive `n` once the lines have reached it: armed exactly if it spins. -/
def spunRotation (spins : Bool) (n : DriveId) (s : State) : Option Armed :=
  if spins then some ((s.drive n).rotation.getD (s.armed s.cfg.pulsePeriod)) else none

theorem startSpinning_drive (n m : DriveId) (s : State) :
    (startSpinning n s).drive m
      = if m = n then (s.drive n).withRotation (spunRotation true n s) else s.drive m := by
  unfold startSpinning
  split
  · next h =>
    obtain ⟨a, ha⟩ := Option.isSome_iff_exists.mp h
    by_cases hm : m = n
    · subst hm; simp [spunRotation, ha]; rw [← ha]; rfl
    · simp [hm]
  · next h =>
    have ha : (s.drive n).rotation = none := by simpa [Drive.spinning] using h
    simp [setDrive_drive, spunRotation, ha]

theorem applySpin_drive (n m : DriveId) (s : State) :
    (applySpin n s).drive m =
      if m = n ∧ present s.cfg n = true then
        (s.drive n).withRotation (spunRotation (decide (s.cur = some n) && s.headLoaded) n s)
      else s.drive m := by
  unfold applySpin
  by_cases hp : present s.cfg n = true
  · by_cases hc : s.cur = some n ∧ s.headLoaded = true
    · simp [hp, hc, startSpinning_drive]
    · have h : (decide (s.cur = some n) && s.headLoaded) = false := by
        simpa [Decidable.not_and_iff_or_not] using hc
      simp [hp, hc, h, stopSpinning, setDrive_drive, spunRotation]
  · simp [hp]

/-- Only a drive that starts takes a sequence number. -/
theorem applySpin_nextSeq (n : DriveId) (s : State) (h : s.cur ≠ some n) : (applySpin n s).nextSeq = s.nextSeq := by
  unfold applySpin stopSpinning
  simp only [h, false_and, if_false]
  split <;> simp

theorem applySpin_nextSeq_eq (n : DriveId) (s : State) :
    (applySpin n s).nextSeq
      = if present s.cfg n = true ∧ s.cur = some n ∧ s.headLoaded = true ∧ (s.drive n).rotation = none then s.nextSeq + 1
        else s.nextSeq := by
  unfold applySpin stopSpinning startSpinning Drive.spinning
  by_cases hp : present s.cfg n = true <;> by_cases hc : s.cur = some n <;> by_cases hl : s.headLoaded = true <;>
    rcases (s.drive n).rotation with _ | a <;> simp [hp, hc, hl]

theorem applySpin_nextSeq_le (n : DriveId) (s : State) : s.nextSeq ≤ (applySpin n s).nextSeq := by
  unfold applySpin stopSpinning startSpinning
  split
  · split
    · split <;> simp
    · simp
  · exact Nat.le_refl _

theorem applySide_drive (m : DriveId) (s : State) :
    (applySide s).drive m =
      if s.cur = some m ∧ present s.cfg m = true then
        (s.drive m).facing s.cfg (s.disc m) (sideOfLine (s.driveOut.getLsbD 5))
      else s.drive m := by
  unfold applySide
  split
  · next h => simp [h]
  · next n h =>
    split
    · next hp =>
      by_cases hm : m = n
      · subst hm; simp [h, hp, setSide_drive]
      · have : n ≠ m := fun e => hm e.symm
        simp [h, setSide_drive, hm, this]
    · next hp =>
      by_cases hm : m = n
      · subst hm; simp [hp]
      · have : n ≠ m := fun e => hm e.symm
        simp [h, this]

theorem applySide_nextSeq (s : State) : (applySide s).nextSeq = s.nextSeq := by
  obtain ⟨_, _, _, h⟩ := applySide_frame s; rw [h]

/-- The side line flushes the disc of the current drive where it turns it. -/
theorem applySide_discs (n : DriveId) (s : State) (h : s.cur = some n) (hp : present s.cfg n = true) :
    (applySide s).discs
      = if (s.drive n).side = sideOfLine (s.driveOut.getLsbD 5) then s.discs else s.discsFlushedIn n := by
  unfold applySide; rw [h]; simp only [hp, if_true]; exact setSide_discs _ _ _

theorem applySide_discs_kept (s : State) (h : ∀ n, s.cur = some n → present s.cfg n = false) :
    (applySide s).discs = s.discs := by
  unfold applySide
  split
  · rfl
  · next n hn => rw [h n hn]; rfl

theorem cancelUnload_drive (o : Option DriveId) (m : DriveId) (s : State) :
    (cancelUnload o s).drive m = s.drive m := by
  unfold cancelUnload; split <;> cases m <;> rfl

theorem cancelUnload_nextSeq (o : Option DriveId) (s : State) : (cancelUnload o s).nextSeq = s.nextSeq := by
  unfold cancelUnload; split <;> rfl

/-! ## Lines and selection -/

/-- A byte's bits after a mask that clears others. -/
theorem getLsbD_clear (b m : Byte) (i : Nat) (hi : i < 8) (h : m.getLsbD i = false) :
    (b &&& ~~~m).getLsbD i = b.getLsbD i := by
  rw [BitVec.getLsbD_and, BitVec.getLsbD_not, h]
  simp only [hi, decide_true, Bool.not_false, Bool.and_self, Bool.and_true]

theorem selOf_congr {a b : Byte} (h6 : a.getLsbD 6 = b.getLsbD 6) (h7 : a.getLsbD 7 = b.getLsbD 7) :
    selOf a = selOf b := by
  unfold selOf
  apply BitVec.eq_of_getLsbD_eq
  intro i hi
  have h : i = 0 ∨ i = 1 := by omega
  rcases h with rfl | rfl
  · simpa [BitVec.getLsbD_extractLsb'] using h6
  · simpa [BitVec.getLsbD_extractLsb'] using h7

theorem selected_congr {a b : Byte} (h6 : a.getLsbD 6 = b.getLsbD 6) (h7 : a.getLsbD 7 = b.getLsbD 7) :
    selected a = selected b := by
  unfold selected; rw [selOf_congr h6 h7]

/-- Clearing lines other than the select lines leaves the selection. -/
theorem selected_clear (v m : Byte) (h6 : m.getLsbD 6 = false) (h7 : m.getLsbD 7 = false) :
    selected (v &&& ~~~m) = selected v :=
  selected_congr (getLsbD_clear v m 6 (by decide) h6) (getLsbD_clear v m 7 (by decide) h7)

/-- Raising lines other than the select lines leaves the selection. -/
theorem selected_raise (v m : Byte) (h6 : m.getLsbD 6 = false) (h7 : m.getLsbD 7 = false) :
    selected (v ||| m) = selected v :=
  selected_congr (by rw [BitVec.getLsbD_or, h6, Bool.or_false]) (by rw [BitVec.getLsbD_or, h7, Bool.or_false])

@[simp] theorem selected_stepLine (v : Byte) : selected (v &&& ~~~stepLine) = selected v :=
  selected_clear v stepLine (by decide) (by decide)

@[simp] theorem setDriveOut_cur (v : Byte) (s : State) : (setDriveOut v s).cur = selected v := by
  simp [State.cur]

@[simp] theorem setDriveOut_headLoaded (v : Byte) (s : State) : (setDriveOut v s).headLoaded = v.getLsbD 3 := by
  simp only [State.headLoaded, setDriveOut_driveOut]
  exact getLsbD_clear v stepLine 3 (by decide) (by decide)

@[simp] theorem setDriveOut_writeGate (v : Byte) (s : State) : (setDriveOut v s).writeGate = v.getLsbD 0 := by
  simp only [State.writeGate, setDriveOut_driveOut]
  exact getLsbD_clear v stepLine 0 (by decide) (by decide)

/-- The step line is never stored (44_seek.md R246). -/
theorem setDriveOut_noStep (v : Byte) (s : State) : (setDriveOut v s).driveOut.getLsbD 1 = false := by
  rw [setDriveOut_driveOut, BitVec.getLsbD_and]
  have : (~~~stepLine).getLsbD 1 = false := by decide
  rw [this, Bool.and_false]

theorem clearLines_cur (m : Byte) (s : State) (h6 : m.getLsbD 6 = false) (h7 : m.getLsbD 7 = false) :
    (clearLines m s).cur = s.cur := by
  rw [clearLines, setDriveOut_cur, selected_clear _ _ h6 h7]; rfl

theorem raiseLines_cur (m : Byte) (s : State) (h6 : m.getLsbD 6 = false) (h7 : m.getLsbD 7 = false) :
    (raiseLines m s).cur = s.cur := by
  rw [raiseLines, setDriveOut_cur, selected_raise _ _ h6 h7]; rfl

/-! ## The whole write -/

/-- The port written and the lines applied to both drives' motors: what the side line finds. -/
def spun (v : Byte) (s : State) : State :=
  applySpin .d1 (applySpin .d0 { s with driveOut := v &&& ~~~stepLine })

theorem spun_frame (v : Byte) (s : State) :
    ∃ d0 d1 k, spun v s = { s with driveOut := v &&& ~~~stepLine, drive0 := d0, drive1 := d1, nextSeq := k } := by
  unfold spun
  obtain ⟨a0, a1, k1, e1⟩ := applySpin_frame .d0 { s with driveOut := v &&& ~~~stepLine }
  obtain ⟨b0, b1, k2, e2⟩ := applySpin_frame .d1 (applySpin .d0 { s with driveOut := v &&& ~~~stepLine })
  rw [e2, e1]
  exact ⟨_, _, _, rfl⟩

@[simp] theorem spun_cfg (v : Byte) (s : State) : (spun v s).cfg = s.cfg := by
  obtain ⟨_, _, _, h⟩ := spun_frame v s; rw [h]

@[simp] theorem spun_driveOut (v : Byte) (s : State) : (spun v s).driveOut = v &&& ~~~stepLine := by
  obtain ⟨_, _, _, h⟩ := spun_frame v s; rw [h]

@[simp] theorem spun_discs (v : Byte) (s : State) : (spun v s).discs = s.discs := by
  obtain ⟨_, _, _, h⟩ := spun_frame v s; rw [h]

@[simp] theorem spun_unload (v : Byte) (s : State) : (spun v s).unload = s.unload := by
  obtain ⟨_, _, _, h⟩ := spun_frame v s; rw [h]

@[simp] theorem spun_cur (v : Byte) (s : State) : (spun v s).cur = selected v := by
  rw [State.cur, spun_driveOut, selected_stepLine]

theorem getLsbD_stepLine (v : Byte) (i : Nat) (hi : i < 8) (h : i ≠ 1) :
    (v &&& ~~~stepLine).getLsbD i = v.getLsbD i := by
  apply getLsbD_clear _ _ _ hi
  have : i = 0 ∨ i = 2 ∨ i = 3 ∨ i = 4 ∨ i = 5 ∨ i = 6 ∨ i = 7 := by omega
  rcases this with rfl | rfl | rfl | rfl | rfl | rfl | rfl <;> decide

/-- What the motors do, drive by drive (43_command_protocol.md R208). -/
theorem spun_drive (v : Byte) (s : State) (m : DriveId) :
    (spun v s).drive m =
      if present s.cfg m = true then
        if selected v = some m then (s.drive m).withRotation (spunRotation (v.getLsbD 3) m s)
        else (s.drive m).withRotation none
      else s.drive m := by
  have h3 : (v &&& ~~~stepLine).getLsbD 3 = v.getLsbD 3 := getLsbD_stepLine v 3 (by decide) (by decide)
  unfold spun
  generalize hu : ({ s with driveOut := v &&& ~~~stepLine } : State) = u
  have hcfg : u.cfg = s.cfg := by rw [← hu]
  have hout : u.driveOut = v &&& ~~~stepLine := by rw [← hu]
  have hd : ∀ n, u.drive n = s.drive n := by intro n; rw [← hu]; cases n <;> rfl
  have hcur : u.cur = selected v := by rw [State.cur, hout, selected_stepLine]
  have hhead : u.headLoaded = v.getLsbD 3 := by rw [State.headLoaded, hout, h3]
  have hep : u.epoch = s.epoch := by rw [← hu]
  have hsq : u.nextSeq = s.nextSeq := by rw [← hu]
  obtain ⟨a0, a1, k1, e1⟩ := applySpin_frame .d0 u
  have c1 : (applySpin .d0 u).cur = selected v := by rw [← hcur, e1]; rfl
  have g1 : (applySpin .d0 u).cfg = s.cfg := by rw [← hcfg, e1]
  have l1 : (applySpin .d0 u).headLoaded = v.getLsbD 3 := by rw [← hhead, e1]; rfl
  have p1 : (applySpin .d0 u).epoch = s.epoch := by rw [← hep, e1]
  have d0 : ∀ k, (applySpin .d0 u).drive k =
      if k = .d0 ∧ present s.cfg .d0 = true then
        (s.drive .d0).withRotation (spunRotation (decide (selected v = some .d0) && v.getLsbD 3) .d0 s)
      else s.drive k := by
    intro k
    rw [applySpin_drive, hcur, hcfg, hhead]
    simp only [spunRotation, State.armed, hd, hep, hsq, hcfg]
  have e : (applySpin .d0 u).drive .d1 = s.drive .d1 := by rw [d0]; simp
  rw [applySpin_drive, c1, g1, l1]
  cases m
  · rw [if_neg (by simp), d0]
    by_cases hp : present s.cfg .d0 = true <;> by_cases hs : selected v = some .d0 <;>
      simp [hp, hs, spunRotation]
  · by_cases hs : selected v = some .d1
    · have hns : u.cur ≠ some .d0 := by rw [hcur, hs]; decide
      have hq := applySpin_nextSeq .d0 u hns
      by_cases hp : present s.cfg .d1 = true <;> simp [hp, hs, spunRotation, State.armed, e, p1, hq, hsq, g1]
    · by_cases hp : present s.cfg .d1 = true <;> simp [hp, hs, spunRotation, e]

theorem spun_disc (v : Byte) (s : State) (n : DriveId) : (spun v s).disc n = s.disc n := by
  apply disc_congr n (spun_discs v s)
  rw [spun_drive]
  split
  · split <;> rfl
  · rfl

/-- A write of `v` starts a drive (43_command_protocol.md R208). -/
def startsOne (v : Byte) (s : State) : Bool :=
  (selected v).any fun n => present s.cfg n && v.getLsbD 3 && (s.drive n).rotation.isNone

/-- Only a drive that starts takes a sequence number (40_environment.md R120, R130). -/
theorem spun_nextSeq (v : Byte) (s : State) :
    (spun v s).nextSeq
      = if startsOne v s = true then s.nextSeq + 1 else s.nextSeq := by
  have h3 : (v &&& ~~~stepLine).getLsbD 3 = v.getLsbD 3 := getLsbD_stepLine v 3 (by decide) (by decide)
  unfold spun
  generalize hu : ({ s with driveOut := v &&& ~~~stepLine } : State) = u
  have hcfg : u.cfg = s.cfg := by rw [← hu]
  have hout : u.driveOut = v &&& ~~~stepLine := by rw [← hu]
  have hd : ∀ n, u.drive n = s.drive n := by intro n; rw [← hu]; cases n <;> rfl
  have hcur : u.cur = selected v := by rw [State.cur, hout, selected_stepLine]
  have hhead : u.headLoaded = v.getLsbD 3 := by rw [State.headLoaded, hout, h3]
  have hsq : u.nextSeq = s.nextSeq := by rw [← hu]
  obtain ⟨a0, a1, k1, e1⟩ := applySpin_frame .d0 u
  have c1 : (applySpin .d0 u).cur = selected v := by rw [← hcur, e1]; rfl
  have g1 : (applySpin .d0 u).cfg = s.cfg := by rw [← hcfg, e1]
  have l1 : (applySpin .d0 u).headLoaded = v.getLsbD 3 := by rw [← hhead, e1]; rfl
  have e : (applySpin .d0 u).drive .d1 = s.drive .d1 := by rw [applySpin_drive, if_neg (by simp), hd]
  rw [applySpin_nextSeq_eq, applySpin_nextSeq_eq, c1, g1, l1, e, hcur, hcfg, hhead, hd, hsq]
  unfold startsOne
  rcases hs : selected v with _ | n
  · simp
  · cases n <;> simp [and_assoc]

theorem setDriveOut_eq (v : Byte) (s : State) : setDriveOut v s = cancelUnload s.cur (applySide (spun v s)) := rfl

@[simp] theorem cancelUnload_discs (o : Option DriveId) (s : State) : (cancelUnload o s).discs = s.discs := by
  unfold cancelUnload; split <;> rfl

/-- What a write of the port leaves of each drive. -/
theorem setDriveOut_drive (v : Byte) (s : State) (m : DriveId) :
    (setDriveOut v s).drive m =
      if present s.cfg m = true then
        if selected v = some m then
          ((s.drive m).withRotation (spunRotation (v.getLsbD 3) m s)).facing s.cfg (s.disc m) (sideOfLine (v.getLsbD 5))
        else (s.drive m).withRotation none
      else s.drive m := by
  have h5 : (v &&& ~~~stepLine).getLsbD 5 = v.getLsbD 5 := getLsbD_stepLine v 5 (by decide) (by decide)
  rw [setDriveOut_eq, cancelUnload_drive, applySide_drive, spun_cur, spun_cfg, spun_driveOut, spun_disc, spun_drive, h5]
  by_cases hp : present s.cfg m = true <;> by_cases hs : selected v = some m <;> simp [hp, hs]

/-- A write of the port flushes the disc of the drive it turns, and no other. -/
theorem setDriveOut_discs (v : Byte) (s : State) (n : DriveId) (h : selected v = some n) (hp : present s.cfg n = true) :
    (setDriveOut v s).discs = if (s.drive n).side = sideOfLine (v.getLsbD 5) then s.discs else s.discsFlushedIn n := by
  have h5 : (v &&& ~~~stepLine).getLsbD 5 = v.getLsbD 5 := getLsbD_stepLine v 5 (by decide) (by decide)
  have hs : ((spun v s).drive n).side = (s.drive n).side := by rw [spun_drive]; simp [hp, h]
  have hd : ((spun v s).drive n).disc = (s.drive n).disc := by rw [spun_drive]; simp [hp, h]
  rw [setDriveOut_eq, cancelUnload_discs, applySide_discs n _ (by rw [spun_cur, h]) (by rw [spun_cfg, hp]),
    spun_driveOut, h5, hs, spun_discs]
  unfold State.discsFlushedIn
  rw [hd, spun_discs]

theorem setDriveOut_discs_kept (v : Byte) (s : State) (h : ∀ n, selected v = some n → present s.cfg n = false) :
    (setDriveOut v s).discs = s.discs := by
  rw [setDriveOut_eq, cancelUnload_discs, applySide_discs_kept _ (by rw [spun_cur, spun_cfg]; exact h), spun_discs]

theorem setDriveOut_nextSeq (v : Byte) (s : State) :
    (setDriveOut v s).nextSeq
      = if startsOne v s = true then s.nextSeq + 1 else s.nextSeq := by
  rw [setDriveOut_eq, cancelUnload_nextSeq, applySide_nextSeq, spun_nextSeq]

theorem setDriveOut_unload (v : Byte) (s : State) :
    (setDriveOut v s).unload = if selected v ≠ s.cur ∨ v.getLsbD 3 = false then none else s.unload := by
  rw [setDriveOut_eq]
  obtain ⟨ds, d0, d1, e⟩ := applySide_frame (spun v s)
  have hc : (applySide (spun v s)).cur = selected v := by rw [e]; exact spun_cur v s
  have hh : (applySide (spun v s)).headLoaded = v.getLsbD 3 := by
    rw [e]; show (spun v s).driveOut.getLsbD 3 = _
    rw [spun_driveOut]; exact getLsbD_stepLine v 3 (by decide) (by decide)
  have hn : (applySide (spun v s)).unload = s.unload := by rw [e]; exact spun_unload v s
  unfold cancelUnload
  rw [hc, hh]
  split
  · rfl
  · exact hn

theorem setDriveOut_nextSeq_le (v : Byte) (s : State) : s.nextSeq ≤ (setDriveOut v s).nextSeq := by
  rw [setDriveOut_nextSeq]; split <;> omega

/-- A write of the port turns a drive only if it is current and present, to the side the line names. -/
theorem setDriveOut_turns (v : Byte) (s : State) (n : DriveId)
    (h : ((setDriveOut v s).drive n).side ≠ (s.drive n).side) :
    present s.cfg n = true ∧ selected v = some n ∧ (s.drive n).side ≠ sideOfLine (v.getLsbD 5) := by
  rw [setDriveOut_drive] at h
  by_cases hp : present s.cfg n = true <;> by_cases hs : selected v = some n <;> simp [hp, hs] at h ⊢
  exact fun e => h e.symm

/-- Every write of the output port does what `PortWritten` lists (43_command_protocol.md R207). -/
theorem setDriveOut_written (v : Byte) (s : State) : PortWritten v s (setDriveOut v s) where
  port := setDriveOut_driveOut v s
  rotation := by
    intro n hp
    rw [setDriveOut_drive, setDriveOut_cur, setDriveOut_headLoaded]
    by_cases hs : selected v = some n
    · simp [hp, hs, spunRotation, State.armed]
    · simp [hp, hs]
  side := by
    intro n hp
    rw [setDriveOut_drive, setDriveOut_cur]
    by_cases hs : selected v = some n <;> simp [hp, hs]
  kept := by
    intro n
    rw [setDriveOut_drive]
    split
    · split
      · intro h
        rw [facing_side] at h
        rw [facing_same ((s.drive n).withRotation (spunRotation (v.getLsbD 3) n s)) s.cfg _ _ h.symm]
        rfl
      · intro _; rfl
    · intro _; rfl
  turned := by
    intro n h
    obtain ⟨hp, hs, hne⟩ := setDriveOut_turns v s n h
    rw [setDriveOut_drive, if_pos hp, if_pos hs,
      facing_other ((s.drive n).withRotation (spunRotation (v.getLsbD 3) n s)) _ _ _ hne]
    rfl
  absent := by intro n hp; rw [setDriveOut_drive]; simp [hp]
  flushed := by
    intro n h
    obtain ⟨hp, hs, hne⟩ := setDriveOut_turns v s n h
    rw [setDriveOut_discs v s n hs hp, if_neg hne]
  discs_kept := by
    intro h
    rcases hs : selected v with _ | n
    · exact setDriveOut_discs_kept v s fun n e => by rw [hs] at e; cases e
    · by_cases hp : present s.cfg n = true
      · rw [setDriveOut_discs v s n hs hp]
        have := h n
        rw [setDriveOut_drive] at this
        simp only [hp, hs, if_true, facing_side] at this
        rw [if_pos this.symm]
      · exact setDriveOut_discs_kept v s fun m e => by
          rw [hs] at e; cases e; simpa using hp
  started := by
    intro n h0 h1
    rw [setDriveOut_drive] at h1
    rw [setDriveOut_nextSeq, if_pos]
    by_cases hp : present s.cfg n = true <;> by_cases hs : selected v = some n <;> simp [hp, hs, h0] at h1
    unfold spunRotation at h1
    split at h1
    · next h3 => simp [startsOne, hs, hp, h3, h0]
    · exact absurd rfl h1
  none_started := by
    intro h
    rw [setDriveOut_nextSeq, if_neg]
    intro e
    unfold startsOne at e
    rcases hs : selected v with _ | n <;> rw [hs] at e
    · cases e
    simp only [Option.any_some, Bool.and_eq_true, Option.isNone_iff_eq_none] at e
    have := h n e.2
    rw [setDriveOut_drive] at this
    simp [e.1.1, hs, e.1.2, spunRotation] at this
  unload := by rw [setDriveOut_unload, setDriveOut_cur, setDriveOut_headLoaded]
  rest := by
    obtain ⟨ds, d0, d1, k, u, e⟩ := setDriveOut_frame v s
    rw [e]

/-- What a command has put into the registers of its sequencing makes no difference to a write of the port. -/
theorem PortWritten.frame {v : Byte} {s t : State} (h : PortWritten v s t) (c : Byte) (b : Bool) (ps : List Byte)
    (k : Nat) (f : Fsm) (o : Operands) (x : Bool) (w : SeekWork) :
    PortWritten v { s with cmd := c, busy := b, params := ps, nexp := k, fsm := f, op := o, deletedSeen := x, seek := w }
      { t with cmd := c, busy := b, params := ps, nexp := k, fsm := f, op := o, deletedSeen := x, seek := w } where
  port := h.port
  rotation := h.rotation
  side := h.side
  kept := h.kept
  turned := h.turned
  absent := h.absent
  flushed := h.flushed
  discs_kept := h.discs_kept
  started := h.started
  none_started := h.none_started
  unload := h.unload
  rest := by rw [h.rest]

/-- The port value of R206 is `selectedPort`. -/
theorem selectedPort_eq (sel : Byte) (out : Byte) (h : selOf sel ≠ selOf out) :
    (out &&& sideLine) ||| (sel &&& selectLines) = selectedPort (selOf sel) out := by
  unfold selectedPort
  rw [if_neg h]
  congr 1
  apply BitVec.eq_of_getLsbD_eq
  intro i hi
  have : i = 0 ∨ i = 1 ∨ i = 2 ∨ i = 3 ∨ i = 4 ∨ i = 5 ∨ i = 6 ∨ i = 7 := by omega
  rw [BitVec.getLsbD_and, BitVec.getLsbD_append]
  rcases this with rfl | rfl | rfl | rfl | rfl | rfl | rfl | rfl <;>
    simp [selOf, selectLines]

/-- Dispatch applies a command's select bits as `Selected` says (43_command_protocol.md R206). -/
theorem selectFromCommand_selected (s : State) : Selected (selOf s.cmd) s (selectFromCommand s) := by
  unfold Selected selectFromCommand
  split
  · rfl
  · next h =>
    rw [selectedPort_eq _ _ h]
    exact setDriveOut_written _ _

end Sys2Proof.Machine
end

