-- ==== Sys2Proof/Laws/Discs.lean ====
section
/-! SUPPORT. What the shared operations leave of the discs and of the heads' places: at most a disc is flushed and the
side line turns the current drive; what a step and the head's advance do. -/

namespace Sys2Proof.Machine

/-! ## Two states with the same discs -/

theorem SameDiscs.refl (s : State) : SameDiscs s s := ⟨rfl, fun _ => rfl⟩

theorem SameDiscs.trans {s t u : State} (h : SameDiscs s t) (k : SameDiscs t u) : SameDiscs s u :=
  ⟨k.1.trans h.1, fun n => (k.2 n).trans (h.2 n)⟩

theorem SameTracks.refl (s : State) : SameTracks s s := fun _ => rfl

theorem SameTracks.trans {s t u : State} (h : SameTracks s t) (k : SameTracks t u) : SameTracks s u :=
  fun n => (k n).trans (h n)

/-- States that agree on the discs and the drives hold the same discs. -/
theorem SameDiscs.of_drives {s t : State} (hd : t.discs = s.discs) (h : ∀ n, t.drive n = s.drive n) : SameDiscs s t :=
  ⟨by rw [hd], fun n => by rw [h n]⟩

theorem SameTracks.of_drives {s t : State} (h : ∀ n, t.drive n = s.drive n) : SameTracks s t :=
  fun n => by rw [h n]

@[simp] theorem flush_flush (d : Disc) : d.flush.flush = d.flush := rfl
@[simp] theorem flush_side (d : Disc) (sd : Side) : d.flush.side sd = d.side sd := by cases sd <;> rfl
@[simp] theorem flush_track (d : Disc) (sd : Side) (p : Nat) : d.flush.track sd p = d.track sd p := by
  simp [Disc.track]
@[simp] theorem flush_writeProtect (d : Disc) : d.flush.writeProtect = d.writeProtect := rfl
@[simp] theorem flush_dirty (d : Disc) : d.flush.dirty = none := rfl
@[simp] theorem flush_wf (d : Disc) : d.flush.wf = d.wf := rfl
@[simp] theorem flush_fits (d : Disc) (c : Params) : d.flush.fits c = d.fits c := rfl

@[simp] theorem flush_comp : Disc.flush ∘ Disc.flush = Disc.flush := rfl

/-- Flushing the disc of a number. -/
theorem map_flush_modify (ds : List Disc) (k : Nat) (f : Disc → Disc) (h : ∀ d, (f d).flush = d.flush) :
    (ds.modify k f).map Disc.flush = ds.map Disc.flush := by
  apply List.ext_getElem?
  intro i
  simp only [List.getElem?_map, List.getElem?_modify]
  split
  · rcases ds[i]? with _ | d <;> simp [h]
  · simp

@[simp] theorem discsFlushedIn_map (s : State) (n : DriveId) :
    (s.discsFlushedIn n).map Disc.flush = s.discs.map Disc.flush := by
  unfold State.discsFlushedIn
  split
  · rfl
  · exact map_flush_modify _ _ _ fun _ => rfl

/-- The discs by number agree but for what waits for a flush. -/
theorem SameDiscs.get {s t : State} (h : SameDiscs s t) (k : Nat) :
    (t.discs[k]?).map Disc.flush = (s.discs[k]?).map Disc.flush := by
  rw [← List.getElem?_map, h.1, List.getElem?_map]

/-- The disc of a drive agrees but for what waits for a flush. -/
theorem SameDiscs.disc {s t : State} (h : SameDiscs s t) (n : DriveId) :
    (t.disc n).map Disc.flush = (s.disc n).map Disc.flush := by
  unfold State.disc
  rw [h.2 n]
  rcases (s.drive n).disc with _ | k
  · rfl
  · exact h.get k

/-- The same discs record the same slots. -/
theorem SameDiscs.bytes {s t : State} (h : SameDiscs s t) : SameDiscBytes s t := by
  intro k sd phys a
  have hn := h.get k
  unfold State.discByte
  rcases hs : s.discs[k]? with _ | d <;> rcases ht : t.discs[k]? with _ | e
  · rfl
  · simp [hs, ht] at hn
  · simp [hs, ht] at hn
  · simp only [hs, ht, Option.map_some, Option.some.injEq] at hn
    have : e.track sd phys = d.track sd phys := by rw [← flush_track e, hn, flush_track]
    simp only [Option.bind_some, this]

theorem SameDiscs.isSome {s t : State} (h : SameDiscs s t) (n : DriveId) :
    (t.disc n).isSome = (s.disc n).isSome := by
  have := congrArg Option.isSome (h.disc n); simpa using this

theorem SameDiscs.protectedDisc {s t : State} (h : SameDiscs s t) (n : DriveId) :
    t.protectedDisc n = s.protectedDisc n := by
  have hn := congrArg (fun o => Option.any Disc.writeProtect o) (h.disc n)
  unfold State.protectedDisc
  rcases hs : s.disc n with _ | d <;> rcases ht : t.disc n with _ | e <;> simp [hs, ht] at hn ⊢ <;> exact hn

/-! ## Turning, moving and stepping a drive -/

theorem moveHead_sameDiscs (n : DriveId) (sd : Side) (p : Nat) (s : State) : SameDiscs s (moveHead n sd p s) :=
  ⟨by simp, fun m => by rw [moveHead_drive]; split <;> simp_all⟩

theorem seekTrack_sameDiscs (n : DriveId) (dirIn : Bool) (s : State) : SameDiscs s (seekTrack n dirIn s) :=
  moveHead_sameDiscs _ _ _ _

/-- A step moves its drive as `Drive.stepped` says, and no other (40_environment.md R134). -/
theorem seekTrack_drive (n m : DriveId) (dirIn : Bool) (s : State) :
    (seekTrack n dirIn s).drive m
      = if m = n then (s.drive n).stepped s.cfg (s.disc n) (doubleStep s.cfg n) dirIn else s.drive m :=
  moveHead_drive _ _ _ _ _

@[simp] theorem seekTrack_discs (n : DriveId) (dirIn : Bool) (s : State) :
    (seekTrack n dirIn s).discs = s.discsFlushedIn n := moveHead_discs _ _ _ _

/-- The head's advance moves the word index of its drive, and nothing else of any drive. -/
theorem advanceHead_drive (n m : DriveId) (len : Nat) (s : State) :
    (advanceHead n len s).drive m
      = if m = n then { s.drive n with word := if len ≤ (s.drive n).word + 1 then 0 else (s.drive n).word + 1 }
        else s.drive m := by
  unfold advanceHead
  split
  · rw [setDrive_drive, flushDisc_drive]
  · rw [setDrive_drive]

theorem advanceHead_discs (n : DriveId) (len : Nat) (s : State) :
    (advanceHead n len s).discs = if len ≤ (s.drive n).word + 1 then s.discsFlushedIn n else s.discs := by
  unfold advanceHead
  split
  · rw [setDrive_discs, flushDisc_discs]
  · rw [setDrive_discs]

theorem advanceHead_sameDiscs (n : DriveId) (len : Nat) (s : State) : SameDiscs s (advanceHead n len s) := by
  refine ⟨?_, fun m => ?_⟩
  · rw [advanceHead_discs]; split
    · simp
    · rfl
  · rw [advanceHead_drive]; split
    · next h => rw [h]
    · rfl

/-! ## The output port -/

theorem setDriveOut_sameDiscs (v : Byte) (s : State) : SameDiscs s (setDriveOut v s) := by
  refine ⟨?_, fun n => ?_⟩
  · have w := setDriveOut_written v s
    by_cases h : ∀ n, ((setDriveOut v s).drive n).side = (s.drive n).side
    · rw [w.discs_kept h]
    · simp only [not_forall] at h
      obtain ⟨n, hn⟩ := h
      rw [w.flushed n hn, discsFlushedIn_map]
  · rw [setDriveOut_drive]
    split
    · split <;> simp
    · rfl

theorem setDriveOut_sameTracks (v : Byte) (s : State) : SameTracks s (setDriveOut v s) := by
  intro n
  rw [setDriveOut_drive]
  split
  · split <;> simp
  · rfl

theorem raiseLines_sameDiscs (m : Byte) (s : State) : SameDiscs s (raiseLines m s) := setDriveOut_sameDiscs _ s
theorem raiseLines_sameTracks (m : Byte) (s : State) : SameTracks s (raiseLines m s) := setDriveOut_sameTracks _ s
theorem clearLines_sameDiscs (m : Byte) (s : State) : SameDiscs s (clearLines m s) := setDriveOut_sameDiscs _ s
theorem clearLines_sameTracks (m : Byte) (s : State) : SameTracks s (clearLines m s) := setDriveOut_sameTracks _ s

theorem selectFromCommand_sameDiscs (s : State) : SameDiscs s (selectFromCommand s) := by
  unfold selectFromCommand; split
  · exact .refl s
  · exact setDriveOut_sameDiscs _ s

theorem selectFromCommand_sameTracks (s : State) : SameTracks s (selectFromCommand s) := by
  unfold selectFromCommand; split
  · exact .refl s
  · exact setDriveOut_sameTracks _ s

/-! ## Completion -/

theorem startUnload_sameDiscs (s : State) : SameDiscs s (startUnload s) := by
  unfold startUnload
  split
  · exact .of_drives rfl fun n => by cases n <;> rfl
  · split
    · exact clearLines_sameDiscs _ s
    · exact .of_drives rfl fun n => by cases n <;> rfl

theorem startUnload_sameTracks (s : State) : SameTracks s (startUnload s) := by
  unfold startUnload
  split
  · exact .of_drives fun n => by cases n <;> rfl
  · split
    · exact clearLines_sameTracks _ s
    · exact .of_drives fun n => by cases n <;> rfl

theorem latch_sameDiscs (code : Byte) (s : State) : SameDiscs s (latch code s) :=
  (SameDiscs.of_drives (s := s) rfl fun n => by cases n <;> rfl).trans (startUnload_sameDiscs _)

theorem latch_sameTracks (code : Byte) (s : State) : SameTracks s (latch code s) :=
  (SameTracks.of_drives (s := s) fun n => by cases n <;> rfl).trans (startUnload_sameTracks _)

theorem complete_sameDiscs (code : Byte) (s : State) : SameDiscs s (complete code s) := by
  have h : SameDiscs s (clearLines writeGateLine s).disarm :=
    (clearLines_sameDiscs writeGateLine s).trans (.of_drives (by simp) fun n => by simp)
  unfold complete
  dsimp only
  split
  · exact h.trans (.of_drives (by simp) fun n => by simp)
  · exact h.trans (latch_sameDiscs _ _)

theorem complete_sameTracks (code : Byte) (s : State) : SameTracks s (complete code s) := by
  have h : SameTracks s (clearLines writeGateLine s).disarm :=
    (clearLines_sameTracks writeGateLine s).trans (.of_drives fun n => by simp)
  unfold complete
  dsimp only
  split
  · exact h.trans (.of_drives fun n => by simp)
  · exact h.trans (latch_sameTracks _ _)

end Sys2Proof.Machine
end

