-- ==== Sys2Proof/Laws/Encoding.lean ====
section
/-! SUPPORT. The fields of a command byte and of a command's frame. -/

namespace Sys2Proof

theorem ofCode_code (op : Op) : Op.ofCode op.code = some op := by cases op <;> rfl

/-- A code that names a command is that command's code. -/
theorem code_of_ofCode {c : BitVec 6} {op : Op} (h : Op.ofCode c = some op) : op.code = c := by
  revert h
  revert op c
  decide

theorem codeOf_append (sel : BitVec 2) (code : BitVec 6) : codeOf (sel ++ code) = code := by
  revert sel code
  decide

theorem selOf_append (sel : BitVec 2) (code : BitVec 6) : selOf (sel ++ code) = sel := by
  revert sel code
  decide

@[simp] theorem codeOf_commandByte (sel : BitVec 2) (op : Op) : codeOf (commandByte sel op) = op.code :=
  codeOf_append sel op.code

@[simp] theorem selOf_commandByte (sel : BitVec 2) (op : Op) : selOf (commandByte sel op) = sel :=
  selOf_append sel op.code

/-- A command byte is its select bits and its code. -/
theorem append_selOf_codeOf (c : Byte) : selOf c ++ codeOf c = c := by
  revert c
  decide

end Sys2Proof
end

