-- ==== Sys2Proof/Laws/Receive.lean ====
section
/-! SUPPORT. What the receive path can do with a machine (45_bitstream.md, 46_read_commands.md): it changes only what
`Received` lists, or it ends the command with a code its class may have. -/

namespace Sys2Proof.Machine

/-- The states in which the controller reads slots (45_bitstream.md R273). -/
def Fsm.reads : Fsm → Bool
  | .searchId | .inId | .searchData | .inData | .writeSkipGap2 => true
  | .idle | .params | .seekStep | .seekSettle | .writeData | .formatWaitIndex | .formatWrite | .completing => false

/-- The codes a command's class may end with before the deleted-data flag is added (60_exceptions.md R420). -/
def baseCodes : Op → List Byte
  | .seek => [0x00, 0x10]
  | .read128 | .readVar | .readDel128 | .readDelVar => [0x00, 0x08, 0x0A, 0x0C, 0x0E, 0x10, 0x18]
  | .verify128 | .verifyVar => [0x00, 0x08, 0x0C, 0x0E, 0x10, 0x18]
  | .readId => [0x00, 0x08, 0x0A, 0x0C, 0x10, 0x18]
  | .write128 | .writeVar | .writeDel128 | .writeDelVar => [0x00, 0x0A, 0x0C, 0x10, 0x12, 0x18]
  | .format => [0x00, 0x0A, 0x10, 0x12]
  | .scan | .scanDel | .readStatus | .specify | .writeSpecial | .readSpecial => []

/-- A code that ends the command `cmd` in the state `f` is one of its class. -/
def CodeFits (cmd : Option Op) (f : Fsm) (code : Byte) : Prop :=
  ∀ op, cmd = some op → phaseFits f cmd = true → code ∈ baseCodes op

/-- How the receive path may move the FSM: only among the reading states, and only where the command goes. -/
def Moves (cmd : Option Op) (f g : Fsm) : Prop :=
  (f.reads = false → g = f) ∧ (f.reads = true → g.reads = true) ∧ (phaseFits f cmd = true → phaseFits g cmd = true)

theorem Moves.refl (cmd : Option Op) (f : Fsm) : Moves cmd f f := ⟨fun _ => rfl, id, id⟩

theorem Moves.trans {cmd : Option Op} {f g h : Fsm} (a : Moves cmd f g) (b : Moves cmd g h) : Moves cmd f h := by
  refine ⟨fun hf => ?_, fun hf => b.2.1 (a.2.1 hf), fun hf => b.2.2 (a.2.2 hf)⟩
  have e := a.1 hf
  rw [← e] at hf ⊢
  exact b.1 hf

theorem CodeFits.from_move {cmd : Option Op} {f g : Fsm} {code : Byte} (m : Moves cmd f g) (h : CodeFits cmd g code) :
    CodeFits cmd f code := fun op ho hf => h op ho (m.2.2 hf)

/-- `t` is `s` but for what the receive path changes: the FSM among its reading states, the shift register and the
counts, the operands, the capture, and a data request raised. -/
inductive Received (s : State) : State → Prop
  | mk (f : Fsm) (sr : Slots) (n : Nat) (o : Operands) (c : Capture) (ds : Bool) (ic : Nat) (sk : Bool) (d : Byte)
      (q i l : Bool) (moves : Moves s.command s.fsm f)
      (asks : (q = s.drq ∧ i = s.irq ∧ l = s.intLine) ∨ (q = true ∧ i = true ∧ l = true ∧ s.fsm.reads = true)) :
      Received s
        { s with
          fsm := f, sr := sr, nbits := n, op := o, cap := c, deletedSeen := ds, indexCount := ic
          wr := { s.wr with skipDone := sk }, data := d, drq := q, irq := i, intLine := l }

theorem Received.refl (s : State) : Received s s :=
  .mk s.fsm s.sr s.nbits s.op s.cap s.deletedSeen s.indexCount s.wr.skipDone s.data s.drq s.irq s.intLine
    (.refl _ _) (.inl ⟨rfl, rfl, rfl⟩)

theorem Received.moves {s t : State} (h : Received s t) : Moves s.command s.fsm t.fsm := by
  cases h; assumption

theorem Received.command {s t : State} (h : Received s t) : t.command = s.command := by
  cases h; rfl

theorem Received.trans {s t u : State} (h : Received s t) (k : Received t u) : Received s u := by
  have hm := h.moves
  have hc := h.command
  cases h with
  | mk f sr n o c ds ic sk d q i l m a =>
    cases k with
    | mk f' sr' n' o' c' ds' ic' sk' d' q' i' l' m' a' =>
      refine .mk f' sr' n' o' c' ds' ic' sk' d' q' i' l' (m.trans m') ?_
      rcases a' with ⟨rfl, rfl, rfl⟩ | ⟨h1, h2, h3, h4⟩
      · exact a
      · refine .inr ⟨h1, h2, h3, ?_⟩
        cases hf : s.fsm.reads with
        | true => rfl
        | false =>
          have e := m.1 hf
          have : f.reads = true := h4
          rw [e, hf] at this
          exact this

/-- The receive path's outcome: the command goes on, or it has ended from some state on the way. -/
inductive Slotted (s : State) : State → Prop
  | going (t : State) (h : Received s t) : Slotted s t
  | ended (code : Byte) (u t : State) (reading : s.fsm.reads = true) (h : Received s u)
      (fits : CodeFits s.command s.fsm code) (after : Received (complete code u) t) : Slotted s t

theorem Slotted.refl (s : State) : Slotted s s := .going s (.refl s)

/-- A command that ends here. -/
theorem Slotted.ends {s u : State} (code : Byte) (reading : s.fsm.reads = true) (h : Received s u)
    (fits : CodeFits s.command s.fsm code) : Slotted s (complete code u) :=
  .ended code u _ reading h fits (.refl _)

/-- A step of the receive path before another one. -/
theorem Slotted.after {s t u : State} (h : Received s t) (k : Slotted t u) : Slotted s u := by
  cases k with
  | going _ k => exact .going _ (h.trans k)
  | ended code v _ r k fits a =>
    refine .ended code v _ ?_ (h.trans k) ?_ a
    · cases hf : s.fsm.reads with
      | true => rfl
      | false => rw [h.moves.1 hf, hf] at r; exact r
    · rw [h.command] at fits; exact fits.from_move h.moves

/-! ## Ends and restarts -/

theorem complete_reads (code : Byte) (s : State) : (complete code s).fsm.reads = false := by
  obtain h | h : s.cfg.completionDelay = 0 ∨ 0 < s.cfg.completionDelay := by omega
  · rw [complete_now _ _ h]; simp [Fsm.reads]
  · rw [complete_later _ _ h]; simp [Fsm.reads]

theorem codeFits_searchId {cmd : Option Op} {f : Fsm} (m : Moves cmd f .searchId) : CodeFits cmd f 0x18 := by
  refine .from_move m fun op h k => ?_
  subst h
  cases op <;> revert k <;> decide

/-- A machine whose FSM, shift register, counts, operands, capture, skip flag and deleted flag are new. -/
theorem Received.of (s : State) (f : Fsm) (sr : Slots) (n : Nat) (o : Operands) (c : Capture) (ds : Bool) (ic : Nat)
    (sk : Bool) (m : Moves s.command s.fsm f) :
    Received s
      { s with
        fsm := f, sr := sr, nbits := n, op := o, cap := c, deletedSeen := ds, indexCount := ic
        wr := { s.wr with skipDone := sk } } :=
  .mk f sr n o c ds ic sk s.data s.drq s.irq s.intLine m (.inl ⟨rfl, rfl, rfl⟩)

/-- Where a move from a reading state may lead, for the command that is in `cmd`. -/
theorem Moves.of {cmd : Option Op} {f g : Fsm} (hf : f.reads = true) (hg : g.reads = true)
    (h : ∀ op, cmd = some op → phaseFits f (some op) = true → phaseFits g (some op) = true)
    (hn : phaseFits f none = true → phaseFits g none = true) : Moves cmd f g := by
  refine ⟨fun e => absurd (hf.symm.trans e) (by decide), fun _ => hg, ?_⟩
  cases cmd with
  | none => exact hn
  | some op => exact h op rfl

theorem fits_of {cmd : Option Op} {f : Fsm} {code : Byte}
    (h : ∀ op, cmd = some op → phaseFits f (some op) = true → code ∈ baseCodes op) : CodeFits cmd f code := by
  intro op ho hf
  subst ho
  exact h op rfl hf

/-- The states a search for the next ID may be begun from. -/
theorem moves_searchId (cmd : Option Op) (f : Fsm) (h : f.reads = true) : Moves cmd f .searchId := by
  refine .of h rfl ?_ ?_
  · intro op _
    cases f <;> first | exact absurd h (by decide) | (cases op <;> decide)
  · cases f <;> first | exact absurd h (by decide) | decide

theorem beginSearch_received (s : State) (h : s.fsm.reads = true) : Received s (beginSearch s) :=
  .of s .searchId 0 s.nbits s.op s.cap s.deletedSeen 0 s.wr.skipDone (moves_searchId _ _ h)

theorem research_slotted (s : State) (h : s.fsm.reads = true) : Slotted s (research s) := by
  have r : Received s { s with fsm := .searchId, sr := 0 } :=
    .of s .searchId 0 s.nbits s.op s.cap s.deletedSeen s.indexCount s.wr.skipDone (moves_searchId _ _ h)
  unfold research
  dsimp only
  split
  · exact .ends _ h r (codeFits_searchId (moves_searchId _ _ h))
  · exact .going _ r

theorem zero_fits {cmd : Option Op} {f : Fsm} (h : f.reads = true) : CodeFits cmd f 0x00 := by
  refine fits_of fun op _ => ?_
  cases f <;> first | exact absurd h (by decide) | (cases op <;> decide)

theorem nextSector_slotted (s : State) (h : s.fsm.reads = true) : Slotted s (nextSector s) := by
  have r (o : Operands) : Received s { s with op := o } :=
    .of s s.fsm s.sr s.nbits o s.cap s.deletedSeen s.indexCount s.wr.skipDone (.refl _ _)
  unfold nextSector
  dsimp only
  split
  · exact .ends _ h (r _) (zero_fits h)
  · exact .going _ ((r _).trans (beginSearch_received _ h))

/-! ## ID fields -/

theorem searchIdSlot_received (s : State) (h : s.fsm = .searchId) : Received s (searchIdSlot s) := by
  unfold searchIdSlot
  split
  · refine .of s .inId s.sr 0 s.op _ s.deletedSeen s.indexCount s.wr.skipDone (.of ?_ rfl ?_ ?_)
    · rw [h]; rfl
    · rw [h]; exact fun _ _ => id
    · rw [h]; exact id
  · exact .refl s

theorem endReadId_slotted (s : State) (h : s.fsm = .inId) (hc : s.command = some .readId) :
    Slotted s (endReadId s) := by
  have hr : s.fsm.reads = true := by rw [h]; rfl
  have fits (code : Byte) (hm : code ∈ baseCodes .readId) : CodeFits s.command s.fsm code := by
    intro op ho _
    rw [hc] at ho
    obtain rfl := Option.some.inj ho
    exact hm
  have r : Received s { s with op := { s.op with count := s.op.count - 1 } } :=
    .of s s.fsm s.sr s.nbits _ s.cap s.deletedSeen s.indexCount s.wr.skipDone (.refl _ _)
  unfold endReadId
  split
  · exact .ends _ hr (.refl s) (fits _ (by decide))
  · split
    · exact .ends _ hr (.refl s) (fits _ (by decide))
    · split
      · exact .ends _ hr (.refl s) (fits _ (by decide))
      · dsimp only
        split
        · exact .ends _ hr r (fits _ (by decide))
        · exact .going _ (r.trans (beginSearch_received _ hr))

theorem endSoughtId_slotted (s : State) (h : s.fsm = .inId) (hc : s.command ≠ some .readId) :
    Slotted s (endSoughtId s) := by
  have hr : s.fsm.reads = true := by rw [h]; rfl
  unfold endSoughtId
  split
  · exact research_slotted s hr
  · split
    · refine .ends _ hr (.refl s) (fits_of fun op ho hf => ?_)
      have hn : op ≠ .readId := fun e => hc (by rw [ho, e])
      rw [h] at hf
      clear ho
      cases op <;> revert hf hn <;> decide
    · split
      · exact research_slotted s hr
      · split
        · next hw =>
          refine .going _ (.of s .writeSkipGap2 s.sr 0 s.op s.cap s.deletedSeen s.indexCount false (.of hr rfl ?_ ?_))
          · intro op ho _
            unfold State.inWriteFamily at hw
            rw [ho] at hw
            exact hw
          · rw [h]; decide
        · next hw =>
          refine .going _ (.of s .searchData 0 0 s.op s.cap s.deletedSeen s.indexCount s.wr.skipDone (.of hr rfl ?_ ?_))
          · intro op ho hf
            unfold State.inWriteFamily at hw
            rw [ho] at hw
            have hn : op ≠ .readId := fun e => hc (by rw [ho, e])
            rw [h] at hf
            clear ho
            cases op <;> revert hf hn hw <;> decide
          · rw [h]; decide

theorem endId_slotted (s : State) (h : s.fsm = .inId) : Slotted s (endId s) := by
  unfold endId
  split
  · next hc => exact endReadId_slotted s h hc
  · next hc => exact endSoughtId_slotted s h hc

theorem noteClock_received (s : State) : Received s (noteClock s) :=
  .of s s.fsm s.sr 0 s.op _ s.deletedSeen s.indexCount s.wr.skipDone (.refl _ _)

theorem offer_received (d : Byte) (s : State) (h : s.fsm.reads = true) : Received s (offer d s) :=
  .mk s.fsm s.sr s.nbits s.op s.cap s.deletedSeen s.indexCount s.wr.skipDone d true true true (.refl _ _)
    (.inr ⟨rfl, rfl, rfl, h⟩)

theorem capture_received (s : State) (c : Capture) : Received s { s with cap := c } :=
  .of s s.fsm s.sr s.nbits s.op c s.deletedSeen s.indexCount s.wr.skipDone (.refl _ _)

theorem idByte_slotted (d : Byte) (s : State) (h : s.fsm = .inId) : Slotted s (idByte d s) := by
  have hr : s.fsm.reads = true := by rw [h]; rfl
  unfold idByte
  dsimp only
  split
  · split
    · next hc =>
      split
      · refine .ends _ hr (capture_received s _) (fits_of fun op ho _ => ?_)
        have e : some op = some .readId := ho.symm.trans hc
        obtain rfl := Option.some.inj e
        decide
      · exact .going _ ((capture_received s _).trans (offer_received d _ hr))
    · exact .going _ (capture_received s _)
  · split
    · exact .after (capture_received s _) (endId_slotted _ (by exact h))
    · exact .going _ (capture_received s _)

theorem inIdSlot_slotted (s : State) (h : s.fsm = .inId) : Slotted s (inIdSlot s) := by
  unfold inIdSlot
  split
  · exact .going _ (.of s s.fsm s.sr _ s.op s.cap s.deletedSeen s.indexCount s.wr.skipDone (.refl _ _))
  · exact .after (noteClock_received s) (idByte_slotted _ _ (by exact h))

/-! ## Data fields -/

theorem startData_received (deleted : Bool) (s : State) (h : s.fsm = .searchData) : Received s (startData deleted s) := by
  refine .of s .inData s.sr 0 s.op _ s.deletedSeen s.indexCount s.wr.skipDone (.of ?_ rfl ?_ ?_)
  · rw [h]; rfl
  · rw [h]; exact fun _ _ => id
  · rw [h]; exact id

theorem searchDataSlot_slotted (s : State) (h : s.fsm = .searchData) : Slotted s (searchDataSlot s) := by
  have r : Received s { s with nbits := s.nbits + 1 } :=
    .of s s.fsm s.sr _ s.op s.cap s.deletedSeen s.indexCount s.wr.skipDone (.refl _ _)
  unfold searchDataSlot
  dsimp only
  split
  · exact .going _ (r.trans (startData_received _ _ h))
  · split
    · exact .going _ (r.trans (startData_received _ _ h))
    · split
      · exact .after r (research_slotted _ (by show s.fsm.reads = true; rw [h]; rfl))
      · exact .going _ r

/-- Late DMA belongs to the transfer commands (60_exceptions.md R420). -/
theorem late_fits {s : State} (h : s.fsm = .inData) (ht : s.isTransfer = true) : CodeFits s.command s.fsm 0x0A := by
  refine fits_of fun op ho hf => ?_
  unfold State.isTransfer at ht
  rw [ho] at ht
  rw [h] at hf
  clear ho
  cases op <;> revert hf ht <;> decide

theorem endData_slotted (s : State) (h : s.fsm = .inData) : Slotted s (endData s) := by
  have hr : s.fsm.reads = true := by rw [h]; rfl
  have r : Received s { s with deletedSeen := s.deletedSeen || s.cap.deleted } :=
    .of s s.fsm s.sr s.nbits s.op s.cap _ s.indexCount s.wr.skipDone (.refl _ _)
  have fits (code : Byte) (hm : ∀ op, phaseFits .inData (some op) = true → code ∈ baseCodes op) :
      CodeFits s.command s.fsm code := fits_of fun op _ hf => hm op (by rw [h] at hf; exact hf)
  unfold endData
  dsimp only
  split
  · next ht =>
    refine .ends _ hr r (late_fits h ?_)
    have := (Bool.and_eq_true_iff.mp ht).1
    exact this
  · split
    · exact .ends _ hr r (fits _ (by intro op; cases op <;> decide))
    · split
      · exact .ends _ hr r (fits _ (by intro op; cases op <;> decide))
      · split
        · exact .ends _ hr r (fits _ (by intro op; cases op <;> decide))
        · exact .after r (nextSector_slotted _ (by exact hr))

theorem dataByte_slotted (d : Byte) (s : State) (h : s.fsm = .inData) : Slotted s (dataByte d s) := by
  have hr : s.fsm.reads = true := by rw [h]; rfl
  unfold dataByte
  dsimp only
  split
  · unfold sectorByte
    dsimp only
    split
    · next ht =>
      split
      · exact .ends _ hr (capture_received s _) (late_fits h ht)
      · exact .going _ ((capture_received s _).trans (offer_received d _ hr))
    · exact .going _ (capture_received s _)
  · split
    · exact .after (capture_received s _) (endData_slotted _ (by exact h))
    · exact .going _ (capture_received s _)

theorem inDataSlot_slotted (s : State) (h : s.fsm = .inData) : Slotted s (inDataSlot s) := by
  unfold inDataSlot
  split
  · exact .going _ (.of s s.fsm s.sr _ s.op s.cap s.deletedSeen s.indexCount s.wr.skipDone (.refl _ _))
  · exact .after (noteClock_received s) (dataByte_slotted _ _ (by exact h))

/-! ## Slots -/

theorem skipSlot_received (s : State) : Received s (skipSlot s) := by
  unfold skipSlot
  dsimp only
  split
  · exact .of s s.fsm s.sr _ s.op s.cap s.deletedSeen s.indexCount true (.refl _ _)
  · exact .of s s.fsm s.sr _ s.op s.cap s.deletedSeen s.indexCount s.wr.skipDone (.refl _ _)

/-- One slot: the receive path's outcome. -/
theorem onSlot_slotted (s : State) (b : Bool) : Slotted s (onSlot s b) := by
  have r : Received s { s with sr := shiftIn s.sr b } :=
    .of s s.fsm _ s.nbits s.op s.cap s.deletedSeen s.indexCount s.wr.skipDone (.refl _ _)
  unfold onSlot
  dsimp only
  split
  · next h => exact .going _ (r.trans (searchIdSlot_received _ h))
  · next h => exact .after r (inIdSlot_slotted _ (by exact h))
  · next h => exact .after r (searchDataSlot_slotted _ (by exact h))
  · next h => exact .after r (inDataSlot_slotted _ (by exact h))
  · exact .going _ (r.trans (skipSlot_received _))
  all_goals exact .going _ r

/-- A slot in a state that reads none is shifted in and changes nothing else. -/
theorem onSlot_idle (s : State) (b : Bool) (h : s.fsm.reads = false) : onSlot s b = { s with sr := shiftIn s.sr b } := by
  unfold onSlot
  dsimp only
  split <;> first | rfl | (next e => rw [e] at h; cases h)

/-- The slots of a chunk, one after another. -/
theorem onSlots_slotted (w : Slots) (n : Nat) (s : State) : Slotted s (onSlots w n s) := by
  unfold onSlots
  have step : ∀ (l : List Bool) (t : State), Slotted s t → Slotted s (l.foldl onSlot t) := by
    intro l
    induction l with
    | nil => intro t h; exact h
    | cons b l ih =>
      intro t h
      refine ih _ ?_
      cases h with
      | going _ h => exact (onSlot_slotted t b).after h
      | ended code u _ hr h fits a =>
        refine .ended code u _ hr h fits (a.trans ?_)
        have hn : t.fsm.reads = false := by
          have hf := complete_reads code u
          rw [a.moves.1 hf]; exact hf
        rw [onSlot_idle t b hn]
        exact .of t t.fsm _ t.nbits t.op t.cap t.deletedSeen t.indexCount t.wr.skipDone (.refl _ _)
  exact step _ s (.refl s)

end Sys2Proof.Machine
end

