-- ==== Sys2Proof/Laws/Evolve.lean ====
section
/-! SUPPORT. What any operation can do to the world around the controller's sequencing (the drives, the port, the
scheduler, the parameters): every meaning and every event is a chain of the elementary changes listed in `Change`. -/

namespace Sys2Proof.Machine

/-- `t` differs from `s` in the controller's own working state only. -/
structure Controlled (s t : State) : Prop where
  cfg : t.cfg = s.cfg
  driveOut : t.driveOut = s.driveOut
  unload : t.unload = s.unload
  discs : t.discs = s.discs
  drive0 : t.drive0 = s.drive0
  drive1 : t.drive1 = s.drive1
  timer : t.timer = s.timer
  epoch : t.epoch = s.epoch
  nextSeq : t.nextSeq = s.nextSeq
  fifo : s.wr.fifo.length ≤ 31 → t.wr.fifo.length ≤ 31

/-- One elementary change of the world. -/
inductive Change (s : State) : State → Prop
  /-- the controller's own working state -/
  | control (t : State) (h : Controlled s t) : Change s t
  /-- a write of the output port -/
  | port (v : Byte) : Change s (setDriveOut v s)
  /-- the unload countdown set or ended -/
  | countdown (u : Option Nat) (h : (∀ k, s.unload = some k → k ≤ 14) → ∀ k, u = some k → 1 ≤ k ∧ k ≤ 14) :
      Change s { s with unload := u }
  /-- the controller's timer armed -/
  | arm (d : Nat) : Change s (s.reschedule .timer d)
  /-- the controller's timer disarmed -/
  | disarm : Change s (s.cancel .timer)
  /-- a step pulse -/
  | pulse (n : DriveId) (dirIn : Bool) : Change s (seekTrack n dirIn s)
  /-- a chunk recorded under the head -/
  | record (n : DriveId) (w : Slots) (k : Nat) (t : State) (h : writePulses n w k s = some t) : Change s t
  /-- the rotation timer of a spinning drive armed again -/
  | rearm (n : DriveId) (h : (s.drive n).spinning = true) : Change s (rearmRotation n s)
  /-- the head moves on with the disc -/
  | turn (n : DriveId) (len : Nat) : Change s (advanceHead n len s)
  /-- time passes, past no armed task -/
  | clock (e : Nat) (h : s.TimeInv → s.epoch ≤ e ∧ State.TimeInv { s with epoch := e }) : Change s { s with epoch := e }
  /-- a disc is built -/
  | build (d : Disc) (hw : d.wf = true) (hf : d.fits s.cfg = true) : Change s { s with discs := s.discs ++ [d] }
  /-- the host changes the disc in a drive, while no drive command runs -/
  | load (n : DriveId) (k : Option Nat) (hm : mayChangeDisc s = true) (hk : k.all s.hasDisc = true) :
      Change s (s.setDrive n ((s.drive n).withDisc k))
  /-- the host sets a write-protect flag -/
  | protect (k : Nat) (on : Bool) : Change s { s with discs := s.discs.modify k (Disc.protect on) }

/-- A chain of elementary changes. -/
abbrev Evolves : State → State → Prop := Relation.ReflTransGen Change

theorem Evolves.refl (s : State) : Evolves s s := Relation.ReflTransGen.refl

theorem Change.evolves {s t : State} (h : Change s t) : Evolves s t := Relation.ReflTransGen.single h

theorem Controlled.evolves {s t : State} (h : Controlled s t) : Evolves s t := (Change.control t h).evolves

/-- A chain, then a change of the controller's own working state. -/
theorem Evolves.control {s t u : State} (h : Evolves s t) (c : Controlled t u) : Evolves s u := h.trans c.evolves

/-- A chain, then one more change. -/
theorem Evolves.step {s t u : State} (h : Evolves s t) (c : Change t u) : Evolves s u := h.trans c.evolves

theorem Controlled.refl (s : State) : Controlled s s := ⟨rfl, rfl, rfl, rfl, rfl, rfl, rfl, rfl, rfl, id⟩

/-- A next state that a chain of changes leads to. -/
def Leads (s : State) (r : Result) : Prop := ∀ t, r = .next t → Evolves s t

theorem Leads.next {s t : State} (h : Evolves s t) : Leads s (.next t) := by
  intro u e; cases e; exact h

theorem Leads.fault (s : State) (f : Fault) : Leads s (.fault f) := fun _ e => by cases e

theorem Leads.refused (s : State) (r : Refusal) : Leads s (.refused r) := fun _ e => by cases e

theorem Leads.from {s t : State} {r : Result} (h : Evolves s t) (k : Leads t r) : Leads s r :=
  fun u e => h.trans (k u e)

/-- A change of the controller's own working state, then more. -/
theorem Leads.after_control {s t : State} {r : Result} (k : Leads t r) (c : Controlled s t) : Leads s r :=
  .from c.evolves k

/-! ## Completion and the receive path -/

theorem startUnload_evolves (s : State) : Evolves s (startUnload s) := by
  unfold startUnload
  split
  · exact (Change.countdown none (fun _ k e => by cases e)).evolves
  · next h15 =>
    split
    · exact (Change.port _).evolves
    · next h0 =>
      refine (Change.countdown _ fun _ k e => ?_).evolves
      obtain rfl := Option.some.inj e
      have : s.regs.headUnload < 16 := (s.regs.headLoadUnload.extractLsb' 4 4).isLt
      omega

theorem latch_evolves (code : Byte) (s : State) : Evolves s (latch code s) :=
  ((Evolves.refl s).control (u := setIrq true
    { s with fsm := .idle, drq := false, result := code, busy := false, resultFull := true })
      ⟨rfl, rfl, rfl, rfl, rfl, rfl, rfl, rfl, rfl, id⟩).trans (startUnload_evolves _)

theorem complete_evolves (code : Byte) (s : State) : Evolves s (complete code s) := by
  have h : Evolves s (clearLines writeGateLine s).disarm := by
    exact (((Evolves.refl s).step (.port (s.driveOut &&& ~~~writeGateLine))).step .disarm).control
      ⟨rfl, rfl, rfl, rfl, rfl, rfl, rfl, rfl, rfl, id⟩
  unfold complete
  dsimp only
  split
  · exact (h.step (.arm (clearLines writeGateLine s).disarm.cfg.completionDelay)).control
      ⟨rfl, rfl, rfl, rfl, rfl, rfl, rfl, rfl, rfl, id⟩
  · exact h.trans (latch_evolves _ _)

theorem Received.controlled {s t : State} (h : Received s t) : Controlled s t := by
  cases h
  exact ⟨rfl, rfl, rfl, rfl, rfl, rfl, rfl, rfl, rfl, id⟩

theorem Slotted.evolves {s t : State} (h : Slotted s t) : Evolves s t := by
  cases h with
  | going _ h => exact h.controlled.evolves
  | ended code u _ _ h _ a => exact h.controlled.evolves.trans ((complete_evolves code u).trans a.controlled.evolves)

theorem finishMgmt_evolves (r : Option Byte) (s : State) : Evolves s (finishMgmt r s) := by
  unfold finishMgmt
  split <;> exact Controlled.evolves ⟨rfl, rfl, rfl, rfl, rfl, rfl, rfl, rfl, rfl, id⟩

/-- A reset, before and after its write of the port. -/
theorem resetController_evolves (s : State) : Evolves s (resetController s) := by
  unfold resetController
  dsimp only
  generalize hu : ({ s with
    timer := none, cont := .none, fsm := .idle
    busy := false, resultFull := false, drq := false
    result := Config.drawByte s.draws, data := Config.drawByte (s.draws + 1), cmd := Config.drawByte (s.draws + 2)
    regs := drawnRegs (s.draws + 3)
    params := [], nexp := 0, sr := 0, nbits := 0, indexCount := 0, deletedSeen := false
    wr := emptyWrite, lastIndex := false
    op := drawnOperands (s.draws + 13), seek := drawnSeek (s.draws + 19), cap := drawnCapture (drawnOperands (s.draws + 13)).size (s.draws + 25)
    draws := s.draws + resetDraws } : State) = u
  have h : Evolves s u := by
    subst hu
    exact ((Evolves.refl s).step .disarm).control ⟨rfl, rfl, rfl, rfl, rfl, rfl, rfl, rfl, rfl, fun _ => Nat.zero_le _⟩
  exact (h.step (.port 0)).control ⟨rfl, rfl, rfl, rfl, rfl, rfl, rfl, rfl, rfl, id⟩

/-! ## Seeking -/

theorem beginSearch_evolves (s : State) : Evolves s (beginSearch s) :=
  Controlled.evolves ⟨rfl, rfl, rfl, rfl, rfl, rfl, rfl, rfl, rfl, id⟩

theorem postSeek_evolves (s : State) : Evolves s (postSeek s) := by
  unfold postSeek
  split
  · exact complete_evolves _ s
  · split
    · exact Controlled.evolves ⟨rfl, rfl, rfl, rfl, rfl, rfl, rfl, rfl, rfl, id⟩
    · exact beginSearch_evolves s

theorem scheduleTimer_leads (d : Nat) (s : State) : Leads s (State.schedule .timer d s) := by
  unfold State.schedule
  split
  · exact .fault _ _
  · exact .next (Change.arm d).evolves

theorem finishSeek_leads (n : DriveId) (s : State) : Leads s (finishSeek n s) := by
  unfold finishSeek
  dsimp only
  generalize s.regs.setTrack n _ = r
  split
  · exact .after_control (scheduleTimer_leads _ _) ⟨rfl, rfl, rfl, rfl, rfl, rfl, rfl, rfl, rfl, id⟩
  · exact .after_control (.next (postSeek_evolves _)) ⟨rfl, rfl, rfl, rfl, rfl, rfl, rfl, rfl, rfl, id⟩

theorem issueStep_leads (n : DriveId) (s : State) : Leads s (issueStep n s) := by
  unfold issueStep
  dsimp only
  exact .from (Change.pulse n s.seek.dirIn).evolves
    (.after_control (scheduleTimer_leads _ _) ⟨rfl, rfl, rfl, rfl, rfl, rfl, rfl, rfl, rfl, id⟩)

theorem seekStep_leads (n : DriveId) (s : State) : Leads s (seekStep n s) := by
  unfold seekStep
  split
  · split
    · exact finishSeek_leads n s
    · split
      · exact .fault _ _
      · exact issueStep_leads n s
  · split
    · exact finishSeek_leads n s
    · exact issueStep_leads n s

theorem startSeek_leads (n : DriveId) (s : State) : Leads s (startSeek n s) := by
  unfold startSeek
  dsimp only
  refine .after_control (t := { s with seek := planSeek n s }) ?_ ⟨rfl, rfl, rfl, rfl, rfl, rfl, rfl, rfl, rfl, id⟩
  split
  · exact .from (Change.port _).evolves
      (.after_control (seekStep_leads _ _) ⟨rfl, rfl, rfl, rfl, rfl, rfl, rfl, rfl, rfl, id⟩)
  · exact .from (Change.port _).evolves
      (.after_control (seekStep_leads _ _) ⟨rfl, rfl, rfl, rfl, rfl, rfl, rfl, rfl, rfl, id⟩)

/-! ## Commands -/

theorem selectFromCommand_evolves (s : State) : Evolves s (selectFromCommand s) := by
  unfold selectFromCommand
  split
  · exact .refl s
  · exact (Change.port _).evolves

theorem loadHead_evolves (s : State) : Evolves s (loadHead s) := by
  have h : Evolves s { s with unload := none, seek := { s.seek with newlyLoaded := !s.headLoaded } } :=
    ((Evolves.refl s).step (.countdown none fun _ k e => by cases e)).control
      ⟨rfl, rfl, rfl, rfl, rfl, rfl, rfl, rfl, rfl, id⟩
  exact h.step (.port _)

theorem startOnDrive_leads (op : Op) (n : DriveId) (s : State) : Leads s (startOnDrive op n s) := by
  refine .after_control (t := { s with deletedSeen := false }) ?_ ⟨rfl, rfl, rfl, rfl, rfl, rfl, rfl, rfl, rfl, id⟩
  refine .from (loadHead_evolves _) ?_
  unfold startOnDrive
  dsimp only
  split
  · exact .next (complete_evolves _ _)
  · split
    · exact .next (complete_evolves _ _)
    · exact startSeek_leads _ _

theorem startDriveCommand_leads (op : Op) (s : State) : Leads s (startDriveCommand op s) := by
  unfold startDriveCommand
  split
  · exact .fault _ _
  · split
    · exact .refused _ _
    · split
      · exact .refused _ _
      · exact .after_control (startOnDrive_leads _ _ _) ⟨rfl, rfl, rfl, rfl, rfl, rfl, rfl, rfl, rfl, id⟩

theorem runReadStatus_leads (s : State) : Leads s (runReadStatus s) := .next (finishMgmt_evolves _ _)

theorem runSpecify_leads (s : State) : Leads s (runSpecify s) := by
  unfold runSpecify
  dsimp only
  split
  · exact .after_control (.next (finishMgmt_evolves _ _)) ⟨rfl, rfl, rfl, rfl, rfl, rfl, rfl, rfl, rfl, id⟩
  · exact .refused _ _

theorem runWriteSpecial_leads (s : State) : Leads s (runWriteSpecial s) := by
  unfold runWriteSpecial
  dsimp only
  split
  · exact .next ((Change.port _).evolves.trans (finishMgmt_evolves _ _))
  · split
    · exact .after_control (.next (finishMgmt_evolves _ _)) ⟨rfl, rfl, rfl, rfl, rfl, rfl, rfl, rfl, rfl, id⟩
    · exact .refused _ _

theorem runReadSpecial_leads (s : State) : Leads s (runReadSpecial s) := by
  unfold runReadSpecial
  split
  · exact .next (finishMgmt_evolves _ _)
  · exact .refused _ _

theorem dispatch_leads (s : State) : Leads s (dispatch s) := by
  refine .from (selectFromCommand_evolves s) ?_
  unfold dispatch
  dsimp only
  split
  · exact runReadStatus_leads _
  · exact runSpecify_leads _
  · exact runWriteSpecial_leads _
  · exact runReadSpecial_leads _
  all_goals first
    | exact startDriveCommand_leads _ _
    | exact .refused _ _

theorem commandAccepted_evolves (v : Byte) (op : Op) (s : State) : Evolves s (commandAccepted v op s) :=
  Controlled.evolves ⟨rfl, rfl, rfl, rfl, rfl, rfl, rfl, rfl, rfl, id⟩

theorem acceptCommand_leads (v : Byte) (s : State) : Leads s (acceptCommand v s) := by
  unfold acceptCommand
  split
  · exact .fault _ _
  · split
    · exact .refused _ _
    · split
      · exact .refused _ _
      · split
        · exact .from (commandAccepted_evolves _ _ _) (dispatch_leads _)
        · exact .next (commandAccepted_evolves _ _ _)

theorem acceptParameter_leads (v : Byte) (s : State) : Leads s (acceptParameter v s) := by
  have h : Evolves s { s with params := s.params ++ [v] } :=
    Controlled.evolves ⟨rfl, rfl, rfl, rfl, rfl, rfl, rfl, rfl, rfl, id⟩
  unfold acceptParameter
  split
  · dsimp only
    split
    · exact .from h (dispatch_leads _)
    · exact .next h
  · exact .fault _ _

theorem issue_leads (op : Op) (sel : BitVec 2) (ps : List Byte) (run : State → Result) (s : State)
    (h : ∀ t, Leads t (run t)) : Leads s (issue op sel ps run s) := by
  unfold issue
  split
  · exact .fault _ _
  · exact .from (commandAccepted_evolves (commandByte sel op) op s)
      (.after_control (.from (selectFromCommand_evolves _) (h _)) ⟨rfl, rfl, rfl, rfl, rfl, rfl, rfl, rfl, rfl, id⟩)

theorem exec_leads (i : Instr) (s : State) : Leads s (exec i s) := by
  cases i
  case scan => unfold exec execScan refuseScan; dsimp only; split; exacts [.fault _ _, .refused _ _]
  case scanDel => unfold exec execScanDel refuseScan; dsimp only; split; exacts [.fault _ _, .refused _ _]
  case readStatus => exact issue_leads _ _ _ _ s runReadStatus_leads
  case specify => exact issue_leads _ _ _ _ s runSpecify_leads
  case writeSpecial => exact issue_leads _ _ _ _ s runWriteSpecial_leads
  case readSpecial => exact issue_leads _ _ _ _ s runReadSpecial_leads
  case rdStatus => exact .next (Controlled.evolves ⟨rfl, rfl, rfl, rfl, rfl, rfl, rfl, rfl, rfl, id⟩)
  case rdResult => exact .next (Controlled.evolves ⟨rfl, rfl, rfl, rfl, rfl, rfl, rfl, rfl, rfl, id⟩)
  case rdUnmapped => exact .next (Controlled.evolves ⟨rfl, rfl, rfl, rfl, rfl, rfl, rfl, rfl, rfl, id⟩)
  case rdData => exact .next (Controlled.evolves ⟨rfl, rfl, rfl, rfl, rfl, rfl, rfl, rfl, rfl, id⟩)
  case wrCommand v => exact acceptCommand_leads v s
  case wrParam v => exact acceptParameter_leads v s
  case wrReset v =>
    unfold exec execWrReset
    dsimp only
    split
    · exact .next (resetController_evolves s)
    · exact .next (.refl s)
  case wrUnmapped => exact .next (.refl s)
  case wrData => exact .next (Controlled.evolves ⟨rfl, rfl, rfl, rfl, rfl, rfl, rfl, rfl, rfl, id⟩)
  all_goals exact issue_leads _ _ _ _ s (startDriveCommand_leads _)

end Sys2Proof.Machine
end

