-- ==== Sys2Proof/Laws/Memory.lean ====
section
/-! SUPPORT. The memory of a track: a read after a write, the canonical form, and the bytes of a chunk. -/

namespace Sys2Proof.Machine

/-- A memory whose addresses begin at `lo` reads as blank below it. -/
theorem Memory.read_below {lo a : Nat} {m : Memory} (h : m.wfFrom lo = true) (ha : a < lo) :
    m.read a = Memory.blank := by
  induction m generalizing lo with
  | nil => rfl
  | cons c m ih =>
    obtain ⟨k, b⟩ := c
    simp only [Memory.wfFrom, Bool.and_eq_true, decide_eq_true_eq] at h
    have hk : k ≠ a := by omega
    simp only [Memory.read, if_neg hk]
    exact ih h.2 (by omega)

/-- A canonical memory stays canonical where fewer addresses are ruled out. -/
theorem Memory.wfFrom_mono {lo lo' : Nat} {m : Memory} (h : m.wfFrom lo = true) (hl : lo' ≤ lo) :
    m.wfFrom lo' = true := by
  cases m with
  | nil => rfl
  | cons c m =>
    simp only [Memory.wfFrom, Bool.and_eq_true, decide_eq_true_eq] at h ⊢
    exact ⟨⟨by omega, h.1.2⟩, h.2⟩

/-- A write keeps the canonical form. -/
theorem Memory.write_wfFrom {lo a : Nat} {m : Memory} (v : Byte) (h : m.wfFrom lo = true) (ha : lo ≤ a) :
    (m.write a v).wfFrom lo = true := by
  induction m generalizing lo with
  | nil =>
    by_cases hv : v = Memory.blank <;> simp [Memory.write, Memory.wfFrom, hv, ha]
  | cons c m ih =>
    obtain ⟨k, b⟩ := c
    simp only [Memory.wfFrom, Bool.and_eq_true, decide_eq_true_eq] at h
    obtain ⟨⟨hk, hb⟩, hm⟩ := h
    unfold Memory.write
    split
    · next hlt =>
      split
      · simp [Memory.wfFrom, hk, hm] at hb ⊢; exact hb
      · next hv => simp [Memory.wfFrom, ha, hv, hm] at hb ⊢; exact ⟨by omega, hb⟩
    · split
      · next hlt heq =>
        split
        · exact Memory.wfFrom_mono hm (by omega)
        · next hv => subst heq; simp [Memory.wfFrom, hk, hv, hm]
      · next hlt hne =>
        simp only [Memory.wfFrom, Bool.and_eq_true, decide_eq_true_eq]
        exact ⟨⟨hk, hb⟩, ih hm (by omega)⟩

theorem Memory.write_wf {m : Memory} (a : Nat) (v : Byte) (h : m.wf = true) : (m.write a v).wf = true :=
  Memory.write_wfFrom v h (Nat.zero_le a)

/-- A read after a write, of a canonical memory: the value written at its address, what was there elsewhere. -/
theorem Memory.read_write_from {lo : Nat} {m : Memory} (a x : Nat) (v : Byte) (h : m.wfFrom lo = true) :
    (m.write a v).read x = if x = a then v else m.read x := by
  induction m generalizing lo with
  | nil =>
    by_cases hv : v = Memory.blank <;> by_cases hx : x = a <;>
      simp [Memory.write, Memory.read, hv, hx, eq_comm]
    simp [Ne.symm hx]
  | cons c m ih =>
    obtain ⟨k, b⟩ := c
    simp only [Memory.wfFrom, Bool.and_eq_true, decide_eq_true_eq] at h
    obtain ⟨⟨hk, hb⟩, hm⟩ := h
    unfold Memory.write
    split
    · next hlt =>
      have hbl : Memory.read ((k, b) :: m) a = Memory.blank := by
        have hka : k ≠ a := by omega
        simp only [Memory.read, if_neg hka]
        exact Memory.read_below hm (by omega)
      by_cases hv : v = Memory.blank
      · rw [if_pos hv]
        by_cases hx : x = a
        · subst hx; rw [if_pos rfl, hbl, hv]
        · rw [if_neg hx]
      · rw [if_neg hv]
        by_cases hx : x = a
        · subst hx; rw [if_pos rfl]; unfold Memory.read; rw [if_pos rfl]
        · rw [if_neg hx]; conv_lhs => unfold Memory.read
          rw [if_neg (Ne.symm hx)]
    · split
      · next hlt heq =>
        subst heq
        by_cases hv : v = Memory.blank
        · rw [if_pos hv]
          by_cases hx : x = a
          · subst hx; rw [if_pos rfl, hv]; exact Memory.read_below hm (by omega)
          · rw [if_neg hx]; conv_rhs => unfold Memory.read
            rw [if_neg (Ne.symm hx)]
        · rw [if_neg hv]
          by_cases hx : x = a
          · subst hx; rw [if_pos rfl]; unfold Memory.read; rw [if_pos rfl]
          · rw [if_neg hx]; unfold Memory.read; rw [if_neg (Ne.symm hx), if_neg (Ne.symm hx)]
      · next hlt hne =>
        by_cases hxk : k = x
        · have hxa : x ≠ a := fun e => hne (e ▸ hxk.symm)
          rw [if_neg hxa]; unfold Memory.read; rw [if_pos hxk, if_pos hxk]
        · conv_lhs => unfold Memory.read
          conv_rhs => rw [Memory.read]
          rw [if_neg hxk, if_neg hxk]
          exact ih hm

theorem Memory.read_write {m : Memory} (a x : Nat) (v : Byte) (h : m.wf = true) :
    (m.write a v).read x = if x = a then v else m.read x :=
  Memory.read_write_from a x v h

/-- A write below a limit keeps every address below it. -/
theorem Memory.write_below {limit a : Nat} {m : Memory} (v : Byte) (h : m.below limit = true) (ha : a < limit) :
    (m.write a v).below limit = true := by
  induction m with
  | nil => by_cases hv : v = Memory.blank <;> simp [Memory.write, Memory.below, hv, ha]
  | cons c m ih =>
    obtain ⟨k, b⟩ := c
    have hk : k < limit := by simp [Memory.below] at h; exact h.1
    have hm : Memory.below limit m = true := by simp [Memory.below] at h ⊢; exact h.2
    unfold Memory.write
    split
    · split
      · exact h
      · simp [Memory.below] at h ⊢; exact ⟨ha, h⟩
    · split
      · split
        · exact hm
        · simp [Memory.below] at hm ⊢; exact ⟨hk, hm⟩
      · have := ih hm
        simp [Memory.below] at this ⊢; exact ⟨hk, this⟩

/-- A write of several bytes keeps the canonical form and the limit. -/
theorem Memory.writeBytes_wf {limit : Nat} (vs : List Byte) {m : Memory} (a : Nat) (h : m.wf = true)
    (hb : m.below limit = true) :
    (Memory.writeBytes limit m a vs).wf = true ∧ (Memory.writeBytes limit m a vs).below limit = true := by
  induction vs generalizing m a with
  | nil => exact ⟨h, hb⟩
  | cons v vs ih =>
    unfold Memory.writeBytes
    split
    · next ha => exact ih (a + 1) (Memory.write_wf a v h) (Memory.write_below v hb ha)
    · exact ih (a + 1) h hb

/-- What several bytes written from an address on leave at any address. -/
theorem Memory.read_writeBytes {limit : Nat} (vs : List Byte) {m : Memory} (a x : Nat) (h : m.wf = true) :
    (Memory.writeBytes limit m a vs).read x
      = if a ≤ x ∧ x < a + vs.length ∧ x < limit then vs.getD (x - a) 0 else m.read x := by
  induction vs generalizing m a with
  | nil => rw [if_neg (by simp; omega)]; rfl
  | cons v vs ih =>
    unfold Memory.writeBytes
    have hw : (if a < limit then m.write a v else m).wf = true := by
      split
      · exact Memory.write_wf a v h
      · exact h
    rw [ih (a + 1) hw]
    have hrd : (if a < limit then m.write a v else m).read x = if x = a ∧ a < limit then v else m.read x := by
      by_cases ha : a < limit
      · rw [if_pos ha, Memory.read_write a x v h]; simp only [ha, and_true]
      · simp only [ha, and_false, if_false]
    rw [hrd]
    simp only [List.length_cons]
    by_cases h1 : a + 1 ≤ x ∧ x < a + 1 + vs.length ∧ x < limit
    · rw [if_pos h1, if_pos (by omega)]
      have : x - a = (x - (a + 1)) + 1 := by omega
      rw [this, List.getD_cons_succ]
    · rw [if_neg h1]
      by_cases h2 : x = a ∧ a < limit
      · rw [if_pos h2, if_pos (by omega), h2.1, Nat.sub_self]; rfl
      · rw [if_neg h2, if_neg (by omega)]

end Sys2Proof.Machine
end

