-- ==== Sys2Proof/Laws/PerInstr.lean ====
section
/-! SUPPORT. What is said of every instruction as syntax, one lemma per constructor: the shape of its frame
(30_encoding.md R81, R84, R85, R98). -/

namespace Sys2Proof.Laws.FrameShape

/-- A command's frame is a documented command byte and as many parameters as its command takes; a bus access of a
well-formed instruction is at an offset of the eight. -/
def Statement (i : Instr) : Prop :=
  i.wf = true →
    match encode i with
    | .command [] => False
    | .command (c :: ps) => ∃ op, Op.ofCode (codeOf c) = some op ∧ ps.length = op.params
    | .read off => off < 8
    | .write off _ => off < 8

/-- The frame of a command is well shaped. -/
theorem of_command {i : Instr} (sel : BitVec 2) (op : Op) (ps : List Byte)
    (h : encode i = .command (commandByte sel op :: ps)) (hn : ps.length = op.params) : Statement i := by
  intro _
  rw [h]
  exact ⟨op, by rw [codeOf_commandByte, ofCode_code], hn⟩

theorem scan (sel : BitVec 2) (a b c d e : Byte) : Statement (.scan sel a b c d e) :=
  of_command sel .scan [a, b, c, d, e] rfl rfl

theorem scanDel (sel : BitVec 2) (a b c d e : Byte) : Statement (.scanDel sel a b c d e) :=
  of_command sel .scanDel [a, b, c, d, e] rfl rfl

theorem write128 (sel : BitVec 2) (a b : Byte) : Statement (.write128 sel a b) :=
  of_command sel .write128 [a, b] rfl rfl

theorem writeVar (sel : BitVec 2) (a b c : Byte) : Statement (.writeVar sel a b c) :=
  of_command sel .writeVar [a, b, c] rfl rfl

theorem writeDel128 (sel : BitVec 2) (a b : Byte) : Statement (.writeDel128 sel a b) :=
  of_command sel .writeDel128 [a, b] rfl rfl

theorem writeDelVar (sel : BitVec 2) (a b c : Byte) : Statement (.writeDelVar sel a b c) :=
  of_command sel .writeDelVar [a, b, c] rfl rfl

theorem read128 (sel : BitVec 2) (a b : Byte) : Statement (.read128 sel a b) :=
  of_command sel .read128 [a, b] rfl rfl

theorem readVar (sel : BitVec 2) (a b c : Byte) : Statement (.readVar sel a b c) :=
  of_command sel .readVar [a, b, c] rfl rfl

theorem readDel128 (sel : BitVec 2) (a b : Byte) : Statement (.readDel128 sel a b) :=
  of_command sel .readDel128 [a, b] rfl rfl

theorem readDelVar (sel : BitVec 2) (a b c : Byte) : Statement (.readDelVar sel a b c) :=
  of_command sel .readDelVar [a, b, c] rfl rfl

theorem readId (sel : BitVec 2) (a b c : Byte) : Statement (.readId sel a b c) :=
  of_command sel .readId [a, b, c] rfl rfl

theorem verify128 (sel : BitVec 2) (a b : Byte) : Statement (.verify128 sel a b) :=
  of_command sel .verify128 [a, b] rfl rfl

theorem verifyVar (sel : BitVec 2) (a b c : Byte) : Statement (.verifyVar sel a b c) :=
  of_command sel .verifyVar [a, b, c] rfl rfl

theorem format (sel : BitVec 2) (a b c d e : Byte) : Statement (.format sel a b c d e) :=
  of_command sel .format [a, b, c, d, e] rfl rfl

theorem seek (sel : BitVec 2) (a : Byte) : Statement (.seek sel a) :=
  of_command sel .seek [a] rfl rfl

theorem readStatus (sel : BitVec 2) : Statement (.readStatus sel) :=
  of_command sel .readStatus [] rfl rfl

theorem specify (sel : BitVec 2) (a b c d : Byte) : Statement (.specify sel a b c d) :=
  of_command sel .specify [a, b, c, d] rfl rfl

theorem writeSpecial (sel : BitVec 2) (a b : Byte) : Statement (.writeSpecial sel a b) :=
  of_command sel .writeSpecial [a, b] rfl rfl

theorem readSpecial (sel : BitVec 2) (a : Byte) : Statement (.readSpecial sel a) :=
  of_command sel .readSpecial [a] rfl rfl

theorem rdStatus : Statement .rdStatus := fun _ => by
  show (_ : Nat) < 8
  decide

theorem rdResult : Statement .rdResult := fun _ => by
  show (_ : Nat) < 8
  decide

theorem rdUnmapped (off : BitVec 3) : Statement (.rdUnmapped off) := fun _ => off.isLt

theorem rdData (off : BitVec 3) : Statement (.rdData off) := fun _ => off.isLt

theorem wrCommand (v : Byte) : Statement (.wrCommand v) := fun _ => by
  show (_ : Nat) < 8
  decide

theorem wrParam (v : Byte) : Statement (.wrParam v) := fun _ => by
  show (_ : Nat) < 8
  decide

theorem wrReset (v : Byte) : Statement (.wrReset v) := fun _ => by
  show (_ : Nat) < 8
  decide

theorem wrUnmapped (v : Byte) : Statement (.wrUnmapped v) := fun _ => by
  show (_ : Nat) < 8
  decide

theorem wrData (off : BitVec 3) (v : Byte) : Statement (.wrData off v) := fun _ => off.isLt

end Sys2Proof.Laws.FrameShape
end

