-- ==== Sys2Proof/Laws/Start.lean ====
section
/-! SUPPORT. How a drive command starts: from its frame to the head load, and what the head load leaves
(43_command_protocol.md R204 to R212). -/

namespace Sys2Proof.Machine

/-! ## From the frame to the dispatch -/

/-- The machine at the dispatch of a command, before its select bits are applied. -/
def atDispatch (c : Byte) (op : Op) (ps : List Byte) (s : State) : State :=
  (commandAccepted c op s).withParams ps

/-- A drive command is accepted, selected and started; a busy controller faults. -/
theorem exec_drive {i : Instr} {c : Byte} {ps : List Byte} {op : Op} (s : State)
    (h : encode i = .command (c :: ps)) (ho : Op.ofCode (codeOf c) = some op) (hd : op.isDrive = true) :
    exec i s = if s.busy then .fault .commandWhileBusy
      else startDriveCommand op (selectFromCommand (atDispatch c op ps s)) := by
  cases i <;> simp only [encode, Frame.command.injEq, List.cons.injEq, reduceCtorEq] at h <;>
    (obtain ⟨rfl, rfl⟩ := h
     rw [codeOf_commandByte, ofCode_code] at ho
     obtain rfl := Option.some.inj ho
     first
       | rfl
       | exact absurd hd (by decide))

/-- A command's frame holds as many parameters as the command takes. -/
theorem params_length {i : Instr} {c : Byte} {ps : List Byte} {op : Op}
    (h : encode i = .command (c :: ps)) (ho : Op.ofCode (codeOf c) = some op) : ps.length = op.params := by
  cases i <;> simp only [encode, Frame.command.injEq, List.cons.injEq, reduceCtorEq] at h <;>
    (obtain ⟨rfl, rfl⟩ := h
     rw [codeOf_commandByte, ofCode_code] at ho
     obtain rfl := Option.some.inj ho
     rfl)

/-! ## Selection at dispatch -/

/-- The select bits of a port whose other bits were masked are those given. -/
theorem selOf_masked (out : Byte) (sel : BitVec 2) : selOf ((out &&& 0x20) ||| (sel ++ 0#6)) = sel := by
  revert out sel
  decide +kernel

/-- Selection changes the port, the drives, the discs, the sequence counter and the unload countdown
only. -/
theorem selectFromCommand_frame (s : State) :
    ∃ o ds d0 d1 k u, selectFromCommand s
      = { s with driveOut := o, discs := ds, drive0 := d0, drive1 := d1, nextSeq := k, unload := u } := by
  unfold selectFromCommand
  split
  · exact ⟨_, _, _, _, _, _, rfl⟩
  · obtain ⟨ds, d0, d1, k, u, h⟩ := setDriveOut_frame ((s.driveOut &&& sideLine) ||| (s.cmd &&& selectLines)) s
    exact ⟨_, _, _, _, _, _, h⟩

/-- The select bits name the drive: after selection it is the current one. -/
theorem selectFromCommand_cur (s : State) : (selectFromCommand s).cur = selected s.cmd := by
  unfold selectFromCommand
  split
  · next h => unfold State.cur selected; rw [h]
  · next h =>
    rw [setDriveOut_cur, selectedPort_eq _ _ h]
    unfold selected selectedPort
    rw [if_neg h]
    have : selOf ((s.driveOut &&& 0x20) ||| (selOf s.cmd ++ 0#6)) = selOf s.cmd := selOf_masked _ _
    rw [this]

/-- The port after selection, but for the step line. -/
theorem selectFromCommand_port (s : State) (i : Nat) (hi : i < 8) (h1 : i ≠ 1) :
    (selectFromCommand s).driveOut.getLsbD i = (selectedPort (selOf s.cmd) s.driveOut).getLsbD i := by
  unfold selectFromCommand
  split
  · next h => unfold selectedPort; rw [if_pos h]
  · next h =>
    rw [setDriveOut_driveOut, selectedPort_eq _ _ h]
    apply getLsbD_clear _ _ _ hi
    have : i = 0 ∨ i = 2 ∨ i = 3 ∨ i = 4 ∨ i = 5 ∨ i = 6 ∨ i = 7 := by omega
    rcases this with rfl | rfl | rfl | rfl | rfl | rfl | rfl <;> decide

/-! ## The head load -/

/-- The head load changes the port, the drives, the discs, the sequence counter, the countdown and what it notes. -/
theorem loadHead_frame (s : State) :
    ∃ ds d0 d1 k, loadHead s =
      { s with
        driveOut := (s.driveOut ||| loadHeadLine) &&& ~~~stepLine, discs := ds, drive0 := d0, drive1 := d1
        nextSeq := k, unload := none, seek := { s.seek with newlyLoaded := !s.headLoaded } } := by
  obtain ⟨ds, d0, d1, k, u, h⟩ := setDriveOut_frame (s.driveOut ||| loadHeadLine)
    { s with unload := none, seek := { s.seek with newlyLoaded := !s.headLoaded } }
  have hu : (loadHead s).unload = none := by
    unfold loadHead raiseLines
    rw [setDriveOut_unload]
    simp
  refine ⟨ds, d0, d1, k, ?_⟩
  have : u = none := by
    rw [← hu]; unfold loadHead raiseLines; rw [h]
  subst this
  exact h

theorem loadHead_sameDiscs (s : State) : SameDiscs s (loadHead s) :=
  (SameDiscs.of_drives (s := s) rfl fun n => by cases n <;> rfl).trans (raiseLines_sameDiscs loadHeadLine _)

theorem loadHead_sameTracks (s : State) : SameTracks s (loadHead s) :=
  (SameTracks.of_drives (s := s) fun n => by cases n <;> rfl).trans (raiseLines_sameTracks loadHeadLine _)

theorem loadHead_cur (s : State) : (loadHead s).cur = s.cur := by
  unfold loadHead
  rw [raiseLines_cur _ _ (by decide) (by decide)]
  rfl

/-- The selected drive spins once the head is loaded; every other present drive is stopped. -/
theorem loadHead_spinning (s : State) (m : DriveId) (hp : present s.cfg m = true) :
    ((loadHead s).drive m).spinning = decide (s.cur = some m) := by
  have hs : selected (s.driveOut ||| loadHeadLine) = s.cur := selected_raise _ _ (by decide) (by decide)
  have h3 : (s.driveOut ||| loadHeadLine).getLsbD 3 = true := by
    rw [BitVec.getLsbD_or]; simp [loadHeadLine]
  unfold loadHead raiseLines
  rw [setDriveOut_drive]
  simp only [hp, if_true]
  show Drive.spinning (if selected (s.driveOut ||| loadHeadLine) = some m then _ else _) = _
  rw [hs]
  by_cases h : s.cur = some m
  · simp only [h, if_true, decide_true, Drive.spinning, facing_rotation, withRotation_rotation]
    unfold spunRotation
    rw [show (({ s with unload := none, seek := { s.seek with newlyLoaded := !s.headLoaded } } : State).driveOut
      ||| loadHeadLine).getLsbD 3 = true from h3]
    rfl
  · simp [h, Drive.spinning]

/-- The selected drive is ready once the head is loaded exactly if it is present and holds a disc (R209). -/
theorem loadHead_ready (s : State) (n : DriveId) (h : s.cur = some n) :
    (loadHead s).ready n = (present s.cfg n && (s.disc n).isSome) := by
  obtain ⟨ds, d0, d1, k, e⟩ := loadHead_frame s
  have hc : (loadHead s).cfg = s.cfg := by rw [e]
  unfold State.ready
  rw [hc, (loadHead_sameDiscs s).isSome n]
  by_cases hp : present s.cfg n = true
  · rw [loadHead_spinning s n hp]; simp [hp, h]
  · simp [hp]

/-- Dispatch, selection and head load leave what `HeadLoadedFor` says (43_command_protocol.md R206, R211, R212). -/
theorem loadHead_headLoadedFor {c : Byte} {ps : List Byte} {op : Op} (s : State) :
    HeadLoadedFor op c ps s
      (loadHead
        { setOperands op (selectFromCommand
            { s with cmd := c, busy := true, params := ps, nexp := ps.length, fsm := .params }) with
          deletedSeen := false }) := by
  generalize h0 : ({ s with cmd := c, busy := true, params := ps, nexp := ps.length, fsm := .params } : State) = s0
  have hs := selectFromCommand_selected s0
  have hcmd : s0.cmd = c := by rw [← h0]
  have hport : s0.driveOut = s.driveOut := by rw [← h0]
  rw [hcmd] at hs
  obtain ⟨o, ds, d0, d1, k, u, hfr⟩ := selectFromCommand_frame s0
  generalize h1 : selectFromCommand s0 = t0 at hs hfr ⊢
  have tp : t0.params = ps := by rw [hfr, ← h0]
  have th : t0.headLoaded = !headWasUp (selOf c) s.driveOut := by
    have := selectFromCommand_port s0 3 (by decide) (by decide)
    rw [h1, hcmd, hport] at this
    unfold State.headLoaded headWasUp
    rw [this, Bool.not_not]
  let x : State := { setOperands op t0 with
    deletedSeen := false, unload := none, seek := { t0.seek with newlyLoaded := !t0.headLoaded } }
  refine ⟨{ t0 with
      cmd := s.cmd, busy := s.busy, params := s.params, nexp := s.nexp, fsm := s.fsm, op := s.op
      deletedSeen := s.deletedSeen, seek := s.seek }, _, ?_,
    (setDriveOut_written (t0.driveOut ||| 0x08) x).frame s.cmd s.busy s.params s.nexp s.fsm s.op s.deletedSeen s.seek, ?_⟩
  · unfold Selected at hs ⊢
    rw [hport] at hs
    split
    · next e => rw [if_pos e] at hs; rw [hs, ← h0]
    · next e =>
      rw [if_neg e] at hs
      have := hs.frame s.cmd s.busy s.params s.nexp s.fsm s.op s.deletedSeen s.seek
      rw [← h0] at this
      exact this
  · show setDriveOut (t0.driveOut ||| 0x08) x = _
    obtain ⟨_, _, _, _, _, e⟩ := setDriveOut_frame (t0.driveOut ||| 0x08) x
    have t5 : State.param t0 = fun k => ps.getD k 0 := by unfold State.param; rw [tp]
    rw [e]
    simp only [x, setOperands]
    rw [tp, th, t5, hfr, ← h0]
    simp

end Sys2Proof.Machine
end

