-- ==== Sys2Proof/Laws/StepChain.lean ====
section
/-! SUPPORT. Every event and every step is a chain of the elementary changes of Evolve.lean. -/

namespace Sys2Proof.Machine

/-! ## Recording -/

/-- Lines raised and the host's byte asked for. -/
theorem requested_evolves (m : Byte) (s : State) : Evolves s (request (raiseLines m s)) :=
  ((Evolves.refl s).step (.port (s.driveOut ||| m))).control ⟨rfl, rfl, rfl, rfl, rfl, rfl, rfl, rfl, rfl, id⟩

theorem startWrite_evolves (s : State) : Evolves s (startWrite s) := by
  unfold startWrite
  refine Relation.ReflTransGen.trans ?_ (requested_evolves _ _)
  exact Controlled.evolves ⟨rfl, rfl, rfl, rfl, rfl, rfl, rfl, rfl, rfl, fun _ => Nat.zero_le _⟩

theorem startFormat_evolves (s : State) : Evolves s (startFormat s) := by
  unfold startFormat
  refine Relation.ReflTransGen.trans ?_ (requested_evolves _ _)
  exact Controlled.evolves ⟨rfl, rfl, rfl, rfl, rfl, rfl, rfl, rfl, rfl, fun _ => Nat.zero_le _⟩

theorem research_evolves (s : State) : Evolves s (research s) := by
  have c : Controlled s { s with fsm := .searchId, sr := 0 } := ⟨rfl, rfl, rfl, rfl, rfl, rfl, rfl, rfl, rfl, id⟩
  unfold research
  dsimp only
  split
  · exact c.evolves.trans (complete_evolves _ _)
  · exact c.evolves

theorem nextSector_evolves (s : State) : Evolves s (nextSector s) := by
  have c (o : Operands) : Controlled s { s with op := o } := ⟨rfl, rfl, rfl, rfl, rfl, rfl, rfl, rfl, rfl, id⟩
  unfold nextSector
  dsimp only
  split
  · exact (c _).evolves.trans (complete_evolves _ _)
  · exact Controlled.evolves ⟨rfl, rfl, rfl, rfl, rfl, rfl, rfl, rfl, rfl, id⟩

theorem endWrite_evolves (s : State) : Evolves s (endWrite s) := by
  unfold endWrite
  split
  · exact ((Evolves.refl s).step (.port _)).trans (nextSector_evolves _)
  · exact .refl s

/-- What encoding an item may change: the queue, the sequence, the CRC and a request for the next byte. -/
structure Encoded (s t : State) : Prop where
  rest : t = { s with wr := t.wr, cap := t.cap, drq := t.drq, irq := t.irq, intLine := t.intLine }
  crc : t.cap = { s.cap with crc := t.cap.crc }
  fifo : t.wr.fifo.length = s.wr.fifo.length ∨ t.wr.fifo.length = s.wr.fifo.length + 32
  skip : t.wr.skipDone = s.wr.skipDone
  request : (t.drq = s.drq ∧ t.irq = s.irq ∧ t.intLine = s.intLine)
    ∨ (t.drq = true ∧ t.irq = true ∧ t.intLine = true)

theorem slotsOf_length (w : Slots) (n : Nat) : (slotsOf w n).length = n := by simp [slotsOf]

theorem enqueue_fifo_length (c d : Byte) (s : State) :
    (enqueue c d s).wr.fifo.length = s.wr.fifo.length + 32 := by
  simp [enqueue, itemSlots, slotsOf_length]

theorem encodeItem_encoded (it : WriteItem) (s : State) : Encoded s (encodeItem it s).1 := by
  cases it with
  | host =>
    unfold encodeItem
    dsimp only
    split
    · exact ⟨rfl, rfl, .inl rfl, rfl, .inl ⟨rfl, rfl, rfl⟩⟩
    · unfold takeHostByte
      dsimp only
      split
      · exact ⟨rfl, rfl, .inr (enqueue_fifo_length _ _ _), rfl, .inr ⟨rfl, rfl, rfl⟩⟩
      · exact ⟨rfl, rfl, .inr (enqueue_fifo_length _ _ _), rfl, .inl ⟨rfl, rfl, rfl⟩⟩
  | _ => exact ⟨rfl, rfl, .inr (enqueue_fifo_length _ _ _), rfl, .inl ⟨rfl, rfl, rfl⟩⟩

theorem encodeNext_encoded (n : Nat) (s : State) : Encoded s (encodeNext n s).1 := by
  unfold encodeNext
  split
  · split
    · exact ⟨rfl, rfl, .inl rfl, rfl, .inl ⟨rfl, rfl, rfl⟩⟩
    · next it rest _ =>
      split
      · exact encodeItem_encoded it s
      · have h := encodeItem_encoded it { s with wr := { s.wr with wseq := rest } }
        exact ⟨by rw [h.rest], h.crc, h.fifo, h.skip, h.request⟩
  · exact ⟨rfl, rfl, .inl rfl, rfl, .inl ⟨rfl, rfl, rfl⟩⟩

/-- A late item leaves the queue as it was. -/
theorem encodeItem_late (it : WriteItem) (s : State) (h : (encodeItem it s).2 = true) : (encodeItem it s).1 = s := by
  cases it with
  | host =>
    unfold encodeItem at h ⊢
    dsimp only at h ⊢
    split at h
    · next hd => rw [if_pos hd]
    · cases h
  | _ => cases h

theorem encodeNext_late (n : Nat) (s : State) (h : (encodeNext n s).2 = true) :
    (encodeNext n s).1.wr.fifo = s.wr.fifo := by
  unfold encodeNext at h ⊢
  split
  · next hf =>
    rw [if_pos hf] at h
    split
    · rfl
    · next it rest hw =>
      simp only [hw] at h
      rw [encodeItem_late it _ h]
      split <;> rfl
  · rfl

theorem Encoded.drive {s t : State} (h : Encoded s t) (n : DriveId) : t.drive n = s.drive n := by
  rw [h.rest]; cases n <;> rfl

theorem Encoded.fsm {s t : State} (h : Encoded s t) : t.fsm = s.fsm := by rw [h.rest]

/-- What a chunk recorded leaves depends on the discs and the drives alone. -/
theorem writePulses_congr {n : DriveId} {w : Slots} {k : Nat} {s r t : State} (hd : r.discs = s.discs)
    (h : r.drive n = s.drive n) (ht : writePulses n w k r = some t) :
    writePulses n w k s = some { s with discs := t.discs } := by
  unfold writePulses onDisc at ht ⊢
  rw [disc_congr n hd (by rw [h]), h] at ht
  split at ht
  · cases ht; rw [hd]
  · split at ht
    · next hp => cases ht; rw [if_pos hp, hd]
    · next hp =>
      rw [if_neg hp]
      obtain ⟨x, hx, rfl⟩ := Option.map_eq_some_iff.mp ht
      rw [hx]
      split <;> simp [hd]

/-- The chunk handed to the drive after an item was encoded. -/
theorem handOver_leads (d : DriveId) (s r : State) (h : Encoded s r) : Leads s (handOver d 32 r) := by
  unfold handOver
  split
  · exact .fault _ _
  · next t hw =>
    have hd : r.discs = s.discs := by rw [h.rest]
    have ht := writePulses_frame hw
    refine .next (((Change.record d _ _ _ (writePulses_congr hd (h.drive d) hw)).evolves.control ?_).trans
      (endWrite_evolves _))
    refine ⟨?_, ?_, ?_, ?_, ?_, ?_, ?_, ?_, ?_, fun hf => ?_⟩
    · rw [dropSlots_cfg, ht, h.rest]
    · rw [dropSlots_driveOut, ht, h.rest]
    · rw [dropSlots_unload, ht, h.rest]
    · rw [dropSlots_discs]
    · rw [dropSlots_drive0, ht, h.rest]
    · rw [dropSlots_drive1, ht, h.rest]
    · rw [dropSlots_timer, ht, h.rest]
    · rw [dropSlots_epoch, ht, h.rest]
    · rw [dropSlots_nextSeq, ht, h.rest]
    · have hl := h.fifo
      have hw : t.wr = r.wr := by rw [ht]
      simp only [State.dropSlots, List.length_drop, hw]
      dsimp only at hf
      omega

theorem emit_leads (d : DriveId) (s : State) : Leads s (emit d 32 s) := by
  have e := encodeNext_encoded 32 s
  unfold emit
  dsimp only
  split
  · next hl =>
    refine .from (Controlled.evolves ?_) (.next (complete_evolves _ _))
    have hf := encodeNext_late 32 s hl
    have hr := e.rest
    generalize (encodeNext 32 s).1 = r at hf hr
    refine ⟨?_, ?_, ?_, ?_, ?_, ?_, ?_, ?_, ?_, fun h => by rw [hf]; exact h⟩ <;> rw [hr]
  · exact handOver_leads d s _ e

/-! ## Index edges and chunks -/

theorem countUnload_evolves (s : State) : Evolves s (countUnload s) := by
  unfold countUnload
  split
  · exact .refl s
  · next k hk =>
    split
    · exact ((Evolves.refl s).step (.countdown none fun _ _ e => by cases e)).step (.port _)
    · next hz =>
      refine (Change.countdown _ fun h j e => ?_).evolves
      obtain rfl := Option.some.inj e
      have := h k hk
      omega

theorem onIndexEdge_evolves (s : State) : Evolves s (onIndexEdge s) := by
  have c : Evolves s (countIndex s) := Controlled.evolves ⟨rfl, rfl, rfl, rfl, rfl, rfl, rfl, rfl, rfl, id⟩
  unfold onIndexEdge
  split
  · exact countUnload_evolves s
  · exact countUnload_evolves s
  · split
    · exact c.trans (complete_evolves _ _)
    · exact c
  · exact c
  · exact c
  · exact startFormat_evolves s
  · split
    · exact complete_evolves _ s
    · exact .refl s
  all_goals exact .refl s

theorem sampleIndex_evolves (n : DriveId) (s : State) : Evolves s (sampleIndex n s) := by
  have c (b : Bool) : Evolves s { s with lastIndex := b } :=
    Controlled.evolves ⟨rfl, rfl, rfl, rfl, rfl, rfl, rfl, rfl, rfl, id⟩
  unfold sampleIndex
  dsimp only
  split
  · exact (c _).trans (onIndexEdge_evolves _)
  · exact c _

theorem readChunk_evolves (w : Slots) (n : Nat) (s : State) : Evolves s (readChunk w n s) := by
  unfold readChunk
  dsimp only
  split
  · exact (onSlots_slotted w n s).evolves.trans (startWrite_evolves _)
  · exact (onSlots_slotted w n s).evolves

theorem onPulses_leads (src : DriveId) (w : Slots) (s : State) : Leads s (onPulses src w 32 s) := by
  unfold onPulses
  dsimp only
  split
  · refine .from (sampleIndex_evolves src s) ?_
    split
    · exact emit_leads _ _
    · exact .next (readChunk_evolves _ _ _)
  · exact .next (.refl s)

theorem deliveredWord_evolves (n : DriveId) (s : State) : Evolves s (deliveredWord n s).2 := by
  have c : Evolves s { s with draws := s.draws + 1 } :=
    Controlled.evolves ⟨rfl, rfl, rfl, rfl, rfl, rfl, rfl, rfl, rfl, id⟩
  unfold deliveredWord drawWord weakWord
  split
  · exact c
  · split
    · exact c
    · split
      · dsimp only
        split
        · exact c
        · exact .refl s
      · exact c

theorem deliveredWord_drive (n m : DriveId) (s : State) : (deliveredWord n s).2.drive m = s.drive m := by
  unfold deliveredWord drawWord weakWord
  split
  · cases m <;> rfl
  · split
    · cases m <;> rfl
    · split
      · dsimp only
        split <;> cases m <;> rfl
      · cases m <;> rfl

theorem onRotation_leads (n : DriveId) (s : State) (h : (s.drive n).spinning = true) : Leads s (onRotation n s) := by
  unfold onRotation
  dsimp only
  split
  · exact .next (Change.rearm n h).evolves
  · refine .from (deliveredWord_evolves n s) (.from (Change.rearm n ?_).evolves ?_)
    · rw [deliveredWord_drive]; exact h
    · intro t ht
      have k := onPulses_leads n (deliveredWord n s).1 (rearmRotation n (deliveredWord n s).2)
      revert ht
      cases hp : onPulses n (deliveredWord n s).1 32 (rearmRotation n (deliveredWord n s).2) with
      | next u =>
        intro ht
        cases ht
        exact (k u hp).step (.turn n _)
      | fault e => intro ht; cases ht
      | refused e => intro ht; cases ht

theorem onTimer_leads (s : State) : Leads s (onTimer s) := by
  unfold onTimer
  split
  · exact .next (.refl s)
  · split
    · split
      · exact .fault _ _
      · exact seekStep_leads _ s
    · exact .next (.refl s)
  · exact .next (postSeek_evolves s)
  · exact .next (latch_evolves _ s)

/-! ## The scheduler -/

/-- Of two armed tasks `earlier` takes one that the other does not precede in time. -/
theorem earlier_cases {a b : Option (Task × Armed)} {x : Task × Armed} (h : earlier a b = some x) :
    (a = some x ∧ ∀ y, b = some y → x.2.expiry ≤ y.2.expiry) ∨ (b = some x ∧ ∀ y, a = some y → x.2.expiry ≤ y.2.expiry) := by
  unfold earlier at h
  split at h
  · exact .inr ⟨h, fun y e => by cases e⟩
  · exact .inl ⟨h, fun y e => by cases e⟩
  · next u v =>
    split at h
    · next hb =>
      obtain rfl := Option.some.inj h
      refine .inr ⟨rfl, fun y e => ?_⟩
      obtain rfl := Option.some.inj e
      unfold Armed.before at hb
      simp only [Bool.or_eq_true, decide_eq_true_eq, Bool.and_eq_true, beq_iff_eq] at hb
      omega
    · next hb =>
      obtain rfl := Option.some.inj h
      refine .inl ⟨rfl, fun y e => ?_⟩
      obtain rfl := Option.some.inj e
      unfold Armed.before at hb
      simp only [Bool.or_eq_true, decide_eq_true_eq, Bool.and_eq_true, beq_iff_eq] at hb
      omega

/-- The task named next is armed. -/
theorem nextTask_armed {s : State} {task : Task} {a : Armed} (h : s.nextTask = some (task, a)) :
    match task with
    | .timer => s.timer = some a
    | .rotation n => (s.drive n).rotation = some a := by
  rcases earlier_cases h with ⟨h, -⟩ | ⟨h, -⟩
  · obtain ⟨x, hx, e⟩ := Option.map_eq_some_iff.mp h
    cases e; exact hx
  · rcases earlier_cases h with ⟨h, -⟩ | ⟨h, -⟩ <;>
      (obtain ⟨x, hx, e⟩ := Option.map_eq_some_iff.mp h
       cases e; exact hx)

/-- Nothing is armed for a time before the next task's. -/
theorem nextTask_first {s : State} {x : Task × Armed} (h : s.nextTask = some x) :
    (∀ b, s.timer = some b → x.2.expiry ≤ b.expiry) ∧ ∀ n b, (s.drive n).rotation = some b → x.2.expiry ≤ b.expiry := by
  have map (t : Task) (o : Option Armed) (b : Armed) (e : o = some b) : o.map (fun a => (t, a)) = some (t, b) := by
    rw [e]; rfl
  rcases earlier_cases h with ⟨h1, k⟩ | ⟨h1, k⟩
  · obtain ⟨a, ha, rfl⟩ := Option.map_eq_some_iff.mp h1
    have kk : ∀ n b, (s.drive n).rotation = some b → a.expiry ≤ b.expiry := by
      intro n b hb
      have hr : ∃ y, earlier (s.drive0.rotation.map fun a => (Task.rotation .d0, a))
          (s.drive1.rotation.map fun a => (Task.rotation .d1, a)) = some y ∧ y.2.expiry ≤ b.expiry := by
        cases n with
        | d0 =>
          have e := map (.rotation .d0) _ b hb
          change s.drive0.rotation.map _ = _ at e
          rw [e]
          cases s.drive1.rotation with
          | none => exact ⟨_, rfl, Nat.le_refl _⟩
          | some c =>
            simp only [earlier, Option.map_some]
            split
            · next hb =>
              refine ⟨_, rfl, ?_⟩
              unfold Armed.before at hb
              simp only [Bool.or_eq_true, decide_eq_true_eq, Bool.and_eq_true, beq_iff_eq] at hb
              show c.expiry ≤ b.expiry
              omega
            · exact ⟨_, rfl, Nat.le_refl _⟩
        | d1 =>
          have e := map (.rotation .d1) _ b hb
          change s.drive1.rotation.map _ = _ at e
          rw [e]
          cases s.drive0.rotation with
          | none => exact ⟨_, rfl, Nat.le_refl _⟩
          | some c =>
            simp only [earlier, Option.map_some]
            split
            · exact ⟨_, rfl, Nat.le_refl _⟩
            · next hb =>
              refine ⟨_, rfl, ?_⟩
              unfold Armed.before at hb
              simp only [Bool.or_eq_true, decide_eq_true_eq, Bool.and_eq_true, beq_iff_eq] at hb
              show c.expiry ≤ b.expiry
              omega
      obtain ⟨y, hy, hle⟩ := hr
      exact Nat.le_trans (k y hy) hle
    refine ⟨fun b hb => ?_, kk⟩
    rw [ha] at hb
    exact Nat.le_of_eq (congrArg Armed.expiry (Option.some.inj hb))
  · refine ⟨fun b hb => k _ (map .timer _ b hb), fun n b hb => ?_⟩
    rcases earlier_cases h1 with ⟨h2, k2⟩ | ⟨h2, k2⟩
    · obtain ⟨a, ha, rfl⟩ := Option.map_eq_some_iff.mp h2
      cases n with
      | d0 =>
        have e : some a = some b := ha.symm.trans hb
        exact Nat.le_of_eq (congrArg Armed.expiry (Option.some.inj e))
      | d1 => exact k2 _ (map (.rotation .d1) _ b hb)
    · obtain ⟨a, ha, rfl⟩ := Option.map_eq_some_iff.mp h2
      cases n with
      | d1 =>
        have e : some a = some b := ha.symm.trans hb
        exact Nat.le_of_eq (congrArg Armed.expiry (Option.some.inj e))
      | d0 => exact k2 _ (map (.rotation .d0) _ b hb)

/-- With no next task nothing is armed. -/
theorem nextTask_none {s : State} (h : s.nextTask = none) : s.timer = none ∧ ∀ n, (s.drive n).rotation = none := by
  have none_of {a b : Option (Task × Armed)} (e : earlier a b = none) : a = none ∧ b = none := by
    unfold earlier at e
    split at e
    · exact ⟨rfl, e⟩
    · exact ⟨e, rfl⟩
    · split at e <;> cases e
  obtain ⟨h1, h2⟩ := none_of h
  obtain ⟨h3, h4⟩ := none_of h2
  refine ⟨Option.map_eq_none_iff.mp h1, fun n => ?_⟩
  cases n
  · exact Option.map_eq_none_iff.mp h3
  · exact Option.map_eq_none_iff.mp h4

/-- Time may pass to the next task. -/
theorem clock_evolves {s : State} {task : Task} {a : Armed} (h : s.nextTask = some (task, a)) (e : Nat)
    (he : s.TimeInv → s.epoch ≤ e) (hl : e ≤ a.expiry) : Evolves s { s with epoch := e } := by
  refine (Change.clock e fun ht => ⟨he ht, ?_⟩).evolves
  have k := nextTask_first h
  refine ⟨fun x hx => ⟨Nat.le_trans hl (k.1 x hx), (ht.1 x hx).2⟩, fun n x hx => ?_⟩
  have hx' : (s.drive n).rotation = some x := by cases n <;> exact hx
  exact ⟨Nat.le_trans hl (k.2 n x hx'), (ht.2 n x hx').2⟩

theorem fire_leads {s : State} {task : Task} {a : Armed} (h : s.nextTask = some (task, a)) (rest : List HostAction) :
    Leads s (fire task a { s with host := rest }) := by
  have ha := nextTask_armed h
  have c : Evolves s { s with epoch := a.expiry } := by
    refine clock_evolves h _ (fun ht => ?_) (Nat.le_refl _)
    cases task with
    | timer => exact (ht.1 a ha).1
    | rotation n => exact (ht.2 n a ha).1
  cases task with
  | timer =>
    have e : Evolves s { s with host := rest, epoch := a.expiry, timer := none } :=
      (c.step .disarm).control ⟨rfl, rfl, rfl, rfl, rfl, rfl, rfl, rfl, rfl, id⟩
    exact .from e (onTimer_leads _)
  | rotation n =>
    have e : Evolves s { s with host := rest, epoch := a.expiry } :=
      c.control ⟨rfl, rfl, rfl, rfl, rfl, rfl, rfl, rfl, rfl, id⟩
    refine .from e (onRotation_leads n _ ?_)
    have : (s.drive n).rotation = some a := ha
    cases n <;> (show Option.isSome _ = true; simp only [State.drive] at this ⊢; rw [this]; rfl)

/-! ## The step -/

theorem accessFrame_leads (f : Frame) (s : State) : Leads s (accessFrame f s) := by
  unfold accessFrame
  split
  · exact exec_leads _ s
  · unfold refuseFrame
    split
    · exact acceptCommand_leads _ s
    all_goals exact .refused _ _

theorem host_evolves (s : State) (rest : List HostAction) : Evolves s { s with host := rest } :=
  Controlled.evolves ⟨rfl, rfl, rfl, rfl, rfl, rfl, rfl, rfl, rfl, id⟩

/-- Every step is a chain of elementary changes. -/
theorem step_leads (s : State) : Leads s (step s) := by
  unfold step
  split
  · exact .next (.refl s)
  · exact .from (host_evolves s _) (accessFrame_leads _ _)
  · next ticks rest _ =>
    unfold advanceBy
    split
    · next task a h =>
      split
      · exact fire_leads h _
      · next hl =>
        refine .next ((clock_evolves h (s.epoch + ticks) (fun _ => Nat.le_add_right _ _) ?_).control ?_)
        · omega
        · exact ⟨rfl, rfl, rfl, rfl, rfl, rfl, rfl, rfl, rfl, id⟩
    · next h =>
      refine .next ((Change.clock (s.epoch + ticks) fun ht => ?_).evolves.control ?_)
      · have k := nextTask_none h
        refine ⟨Nat.le_add_right _ _, fun x hx => ?_, fun n x hx => ?_⟩
        · rw [show s.timer = some x from hx] at k; cases k.1
        · have hx' : (s.drive n).rotation = some x := by cases n <;> exact hx
          have := k.2 n
          rw [hx'] at this; cases this
      · exact ⟨rfl, rfl, rfl, rfl, rfl, rfl, rfl, rfl, rfl, id⟩
  · next d rest _ =>
    refine .from (host_evolves s rest) ?_
    unfold buildDisc
    split
    · next hw =>
      split
      · next hf => exact .next (Change.build d hw hf).evolves
      · exact .refused _ _
    · exact .refused _ _
  · next n k rest _ =>
    refine .from (host_evolves s rest) ?_
    unfold changeDisc
    split
    · next hm =>
      split
      · next hk => exact .next (Change.load n k hm hk).evolves
      · exact .refused _ _
    · exact .refused _ _
  · next k on rest _ =>
    refine .from (host_evolves s rest) ?_
    unfold protectDisc
    split
    · split
      · exact .next (Change.protect k on).evolves
      · exact .refused _ _
    · exact .refused _ _
  · next rest _ => exact .from (host_evolves s rest) (.next (resetController_evolves _))

end Sys2Proof.Machine
end

