-- ==== Sys2Proof/Tests/Slice0.lean ====
section
/-! SUPPORT. The model's own tests: ill-formed terms refused, every constructor's frame decoded from bytes written out
from 30_encoding.md R80, R81 and R98, vectors of 95_test_vectors.md and worked examples of the rules, and for every
statement with hypotheses states and operands that meet them. -/

set_option Elab.async false

namespace Sys2Proof.Machine.Tests

/-! ## Well-formedness -/

theorem test_wf_refuses_rdUnmapped_at_result : (Instr.rdUnmapped 1).wf = false := by decide
theorem test_wf_refuses_rdUnmapped_at_data : (Instr.rdUnmapped 4).wf = false := by decide
theorem test_wf_refuses_rdData_at_status : (Instr.rdData 0).wf = false := by decide
theorem test_wf_refuses_rdData_at_unmapped : (Instr.rdData 3).wf = false := by decide
theorem test_wf_refuses_wrData_at_reset : (Instr.wrData 2 0xFF).wf = false := by decide
theorem test_wf_takes_the_last_offset : (Instr.wrData 7 0xFF).wf = true := by decide

/-! ## Decoding: command bytes written as the two select bits and the six code bits of R81 -/

theorem test_decode_scan : decode (.command [0b01000000, 1, 2, 3, 4, 5]) = .ok (.scan 1 1 2 3 4 5) := by decide
theorem test_decode_scanDel : decode (.command [0b10000100, 1, 2, 3, 4, 5]) = .ok (.scanDel 2 1 2 3 4 5) := by decide
theorem test_decode_write128 : decode (.command [0b01001010, 7, 8]) = .ok (.write128 1 7 8) := by decide
theorem test_decode_writeVar : decode (.command [0b01001011, 7, 8, 0x21]) = .ok (.writeVar 1 7 8 0x21) := by decide
theorem test_decode_writeDel128 : decode (.command [0b10001110, 7, 8]) = .ok (.writeDel128 2 7 8) := by decide
theorem test_decode_writeDelVar :
    decode (.command [0b01001111, 7, 8, 0x21]) = .ok (.writeDelVar 1 7 8 0x21) := by decide
theorem test_decode_read128 : decode (.command [0b01010010, 7, 8]) = .ok (.read128 1 7 8) := by decide
theorem test_decode_readVar : decode (.command [0b11010011, 7, 8, 0x21]) = .ok (.readVar 3 7 8 0x21) := by decide
theorem test_decode_readDel128 : decode (.command [0b01010110, 7, 8]) = .ok (.readDel128 1 7 8) := by decide
theorem test_decode_readDelVar :
    decode (.command [0b01010111, 7, 8, 0x21]) = .ok (.readDelVar 1 7 8 0x21) := by decide
theorem test_decode_readId : decode (.command [0b01011011, 7, 0, 2]) = .ok (.readId 1 7 0 2) := by decide
theorem test_decode_verify128 : decode (.command [0b01011110, 7, 8]) = .ok (.verify128 1 7 8) := by decide
theorem test_decode_verifyVar : decode (.command [0b01011111, 7, 8, 0x21]) = .ok (.verifyVar 1 7 8 0x21) := by decide
theorem test_decode_format :
    decode (.command [0b01100011, 1, 0x10, 0x25, 0, 0x11]) = .ok (.format 1 1 0x10 0x25 0 0x11) := by decide
theorem test_decode_seek : decode (.command [0b00101001, 7]) = .ok (.seek 0 7) := by decide
theorem test_decode_readStatus : decode (.command [0b10101100]) = .ok (.readStatus 2) := by decide
theorem test_decode_specify : decode (.command [0b00110101, 0x0D, 1, 2, 3]) = .ok (.specify 0 0x0D 1 2 3) := by decide
theorem test_decode_writeSpecial : decode (.command [0b01111010, 0x17, 0xC1]) = .ok (.writeSpecial 1 0x17 0xC1) := by
  decide
theorem test_decode_readSpecial : decode (.command [0b01111101, 0x12]) = .ok (.readSpecial 1 0x12) := by decide
theorem test_decode_rdStatus : decode (.read 0b000) = .ok .rdStatus := by decide
theorem test_decode_rdResult : decode (.read 0b001) = .ok .rdResult := by decide
theorem test_decode_rdUnmapped : decode (.read 0b011) = .ok (.rdUnmapped 3) := by decide
theorem test_decode_rdData : decode (.read 0b110) = .ok (.rdData 6) := by decide
theorem test_decode_wrCommand : decode (.write 0b000 0x69) = .ok (.wrCommand 0x69) := by decide
theorem test_decode_wrParam : decode (.write 0b001 0x05) = .ok (.wrParam 0x05) := by decide
theorem test_decode_wrReset : decode (.write 0b010 0x01) = .ok (.wrReset 0x01) := by decide
theorem test_decode_wrUnmapped : decode (.write 0b011 0xFF) = .ok (.wrUnmapped 0xFF) := by decide
theorem test_decode_wrData : decode (.write 0b101 0xAA) = .ok (.wrData 5 0xAA) := by decide

/-- A code outside the map (R82), and frames with a byte missing or one too many (R85). -/
theorem test_decode_rejects_undocumented : decode (.command [0x41, 0]) = .error (.undocumented 0x41) := by decide
theorem test_decode_rejects_short : decode (.command [0x53, 0, 3]) = .error .missingParameters := by decide
theorem test_decode_rejects_long : decode (.command [0x6C, 0]) = .error .extraBytes := by decide
theorem test_decode_rejects_offset : decode (.read 8) = .error .offsetOutOfRange := by decide

/-- Words as spec/opcode_table.json numbers them, the first byte in bits 7 to 0. -/
theorem test_word_readStatus : decodeTableWord 8 0x6C = some (.readStatus 1) := by decide
theorem test_word_seek : decodeTableWord 8 0x29 = some (.seek 0 0) := by decide
theorem test_word_writeSpecial : decodeTableWord 24 0xC1177A = some (.writeSpecial 1 0x17 0xC1) := by decide
theorem test_word_rdResult : decodeTableWord 8 1 = some .rdResult := by decide

/-! ## States -/

/-- The internal registers after the initialisation of 95_test_vectors.md section 1.2. -/
def regs0 : Regs where
  stepRate := 0x0C
  settle := 0x0A
  headLoadUnload := 0x21
  bad1s0 := 0xFF
  bad2s0 := 0xFF
  trackS0 := 0
  mode := 0xC1
  bad1s1 := 0xFF
  bad2s1 := 0xFF
  trackS1 := 0

/-- A disc of three unformatted tracks a side. -/
def blankDisc : Disc where
  side0 := List.replicate 3 { capacity := 4, length := 4, cells := [] }
  side1 := List.replicate 3 { capacity := 4, length := 4, cells := [] }
  writeProtect := false
  dirty := none

/-- The initialised, idle controller, a blank disc in drive 0; the index pulse is one word long. -/
def idle : State :=
  { State.reset with
    cfg := { Params.vectors with indexPulseWords := 1 }
    regs := regs0, cmd := 0x00, result := 0x00, data := 0x00, draws := 0
    op := { reqTrack := 0, sector := 0, size := 128, count := 1, gap3 := 0, gap1 := 0 }
    seek := { target := 0, recal := false, dirIn := false, steps := 0, stepped := false, newlyLoaded := false }
    cap := { crc := 0, clkErr := false, idb := [], nbytes := 0, crcb := [], deleted := false }
    discs := [blankDisc], drive0 := { Drive.powerOn with disc := some 0 } }

/-- Drive 0 selected, its head loaded, its rotation timer armed. -/
def loaded : State :=
  { idle with
    driveOut := 0x48, nextSeq := 2
    drive0 := { Drive.powerOn with disc := some 0, rotation := some { expiry := 128, seq := 0 } } }

/-- A drive command whose byte is `c` runs in the FSM state `f`. -/
def running (c : Byte) (f : Fsm) : State := { loaded with cmd := c, busy := true, fsm := f }

/-- A running command that waits for the controller's timer. -/
def waiting (c : Byte) (f : Fsm) (k : Cont) : State :=
  { running c f with cont := k, timer := some { expiry := 50, seq := 1 } }

/-- A disc none of whose tracks may be written. -/
def protectedDisc : Disc := { blankDisc with writeProtect := true }

/-- A controller that writes a data field's next byte, 0xE5, at word 2 of track 0, and a host that lets the chunk's time
pass. -/
def recording : State :=
  { running 0x4A .writeData with
    driveOut := 0x49, host := [.advance 128]
    wr := { emptyWrite with wseq := [.fill 0xE5, .crcHi] }
    drive0 := { Drive.powerOn with
      disc := some 0, word := 2, rotation := some { expiry := 128, seq := 0 } } }

/-- What an outcome leaves; the idle machine for a stop. -/
def after : Result → State
  | .next s => s
  | .fault _ | .refused _ => idle

/-- The outcome is a next state. -/
def goesOn : Result → Bool
  | .next _ => true
  | .fault _ | .refused _ => false

/-! ## Codec (95_test_vectors.md section 3.1) -/

theorem test_crc_id_mark : crcByte crcInit 0xFE = 0xEF21 := by decide +kernel
theorem test_crc_id_field : crcBytes crcInit [0xFE, 0x00, 0x00, 0x03, 0x00] = 0xB4A1 := by decide +kernel
theorem test_crc_check_string :
    crcBytes crcInit [0x31, 0x32, 0x33, 0x34, 0x35, 0x36, 0x37, 0x38, 0x39] = 0x29B1 := by decide +kernel
theorem test_fm_id_mark : fmEncode 0xC7 0xFE = 0x55111554 := by decide +kernel
theorem test_fm_deleted_mark : fmEncode 0xC7 0xF8 = 0x55111444 := by decide +kernel
theorem test_fm_fill : fmEncode 0xFF 0xE5 = 0x55544545 := by decide +kernel
theorem test_fm_decode_iffy : fmDecode 0x55111556 = (0xC7, 0xFE, true) := by decide +kernel
theorem test_fm_decode_missing_pulse : fmDecode 0x45111554 = (0xC7, 0x7E, false) := by decide +kernel

/-! ## Instructions -/

/-- Section 3.3: the status byte awaiting a parameter, with a byte ready, and after a completion. -/
theorem test_status_busy : (after (exec .rdStatus (after (exec (.wrCommand 0x69) idle)))).readData = 0x80 := by decide
theorem test_status_byte_ready :
    ({ running 0x53 .inData with drq := true, irq := true } : State).status = 0x8C := by decide
theorem test_rdResult_empties :
    (after (exec .rdResult { idle with result := 0x18, resultFull := true, irq := true })).status = 0x00 := by decide
theorem test_rdData_keeps_the_result :
    (after (exec (.rdData 4) { idle with resultFull := true, irq := true })).status = 0x10 := by decide
theorem test_wrData_stores : (after (exec (.wrData 7 0xAA) idle)).data = 0xAA := by decide
theorem test_wrUnmapped_nothing : exec (.wrUnmapped 0xFF) idle = .next idle := by rfl
theorem test_rdUnmapped_keeps_status : (after (exec (.rdUnmapped 2) { idle with irq := true })).irq = true := by decide

/-- Section 3.4. -/
theorem test_wrCommand_undocumented : exec (.wrCommand 0x41) idle = .refused .undocumentedCommand := by rfl
theorem test_wrCommand_busy :
    exec (.wrCommand 0x6C) (after (exec (.wrCommand 0x69) idle)) = .fault .commandWhileBusy := by rfl
theorem test_wrParam_idle : exec (.wrParam 0) idle = .fault .unexpectedParameter := by rfl
theorem test_wrParam_dispatches :
    (after (exec (.wrParam 5) (after (exec (.wrCommand 0x69) idle)))).driveOut = 0x4C := by decide +kernel
theorem test_seek_selects_and_loads : (after (exec (.seek 1 0x05) idle)).driveOut = 0x4C := by decide +kernel
theorem test_seek_needs_a_drive : exec (.seek 0 0x05) idle = .fault .noDriveSelected := by rfl
theorem test_seek_runs_in_dma_mode : goesOn (exec (.seek 1 0x03) { idle with regs := { regs0 with mode := 0xC0 } }) = true := by
  decide +kernel
theorem test_readVar_zero_count : exec (.readVar 1 0x00 0x03 0x20) idle = .refused .zeroCount := by rfl
theorem test_readVar_dma_mode :
    exec (.readVar 1 0x00 0x03 0x21) { idle with regs := { regs0 with mode := 0xC0 } } = .refused .dmaModeUnmodelled := by
  rfl
theorem test_format_gap5 : exec (.format 1 0x00 0x10 0x25 0x01 0x10) idle = .refused .formatGap5 := by rfl
theorem test_format_write_protected :
    (after (exec (.format 1 0x00 0x10 0x25 0x00 0x10)
      { idle with discs := [protectedDisc] })).result = 0x12 := by decide +kernel
theorem test_scan_refused : exec (.scan 1 0 0 0 0 0) idle = .refused .scanUnmodelled := by rfl
theorem test_scanDel_refused : exec (.scanDel 1 0 0 0 0 0) idle = .refused .scanUnmodelled := by rfl

/-- A drive command that passes its checks: the head loads for 16000 ticks (section 3.5 S1), or a step takes 48000. -/
theorem test_read128_waits : (after (exec (.read128 1 0 3) idle)).timer.map Armed.expiry = some 16000 := by
  decide +kernel
theorem test_readDel128_waits : (after (exec (.readDel128 1 0 3) idle)).fsm = .seekSettle := by decide +kernel
theorem test_readDelVar_waits : (after (exec (.readDelVar 1 0 3 0x21) idle)).op.size = 256 := by decide +kernel
theorem test_verify128_waits : (after (exec (.verify128 1 0 3) idle)).op.size = 128 := by decide +kernel
theorem test_verifyVar_waits : (after (exec (.verifyVar 1 0 3 0x42) idle)).op.count = 2 := by decide +kernel
theorem test_readId_waits : (after (exec (.readId 1 0 0xFF 2) idle)).op.count = 2 := by decide +kernel
theorem test_write128_steps : (after (exec (.write128 1 2 3) idle)).timer.map Armed.expiry = some 48000 := by
  decide +kernel
theorem test_writeVar_steps : (after (exec (.writeVar 1 2 3 0x21) idle)).drive0.phys = 1 := by decide +kernel
theorem test_writeDel128_steps : (after (exec (.writeDel128 1 2 3) idle)).fsm = .seekStep := by decide +kernel
theorem test_writeDelVar_steps : (after (exec (.writeDelVar 1 2 3 0x21) idle)).op.reqTrack = 2 := by decide +kernel
theorem test_format_waits : (after (exec (.format 1 0 0x10 0x25 0 0x11) idle)).op.gap1 = 0x11 := by decide +kernel

/-- Section 3.9. -/
theorem test_readStatus_result : (after (exec (.readStatus 1) idle)).result = 0x12 := by decide +kernel
theorem test_readStatus_selects : (after (exec (.readStatus 1) idle)).driveOut = 0x40 := by decide +kernel
theorem test_writeSpecial_spins :
    (after (exec (.writeSpecial 1 0x23 0x48) idle)).drive0.spinning = true := by decide +kernel
theorem test_writeSpecial_refused : exec (.writeSpecial 1 0x22 0x00) idle = .refused .specialRegister := by rfl
theorem test_readSpecial_port : (after (exec (.readSpecial 1 0x22) loaded)).result = 0x16 := by decide +kernel
theorem test_readSpecial_refused : exec (.readSpecial 1 0x06) idle = .refused .specialRegister := by rfl
theorem test_specify_group : (after (exec (.specify 0 0x0D 0x0C 0x0A 0x21) idle)).regs.headLoadUnload = 0x21 := by
  decide +kernel
theorem test_specify_refused : exec (.specify 1 0x11 0x01 0x02 0x03) idle = .refused .specifyTarget := by rfl
theorem test_wrReset_resets : (after (exec (.wrReset 0x01) { loaded with busy := true, irq := true })).status = 0x00 := by
  decide +kernel
theorem test_wrReset_ignores_other_bits : exec (.wrReset 0xFE) idle = .next idle := by rfl

/-- The power-on state is what a reset leaves of it (70_reset_and_hazards.md R453). -/
theorem test_reset_is_a_reset : resetController { State.reset with draws := 0 } = State.reset := by rfl

/-- The next step runs the instruction placed. -/
theorem test_step_runs_the_word : (after (step (idle.withFetchWord 8 0x6C))).result = 0x12 := by decide +kernel

/-- Section 3.5 S7 to S10: the bad-track adjustment. -/
theorem test_adjust_wraps : adjust { regs0 with bad1s0 := 0x10 } .d0 0xFF = 0 := by decide
theorem test_adjust_chains : adjust { regs0 with bad1s0 := 5, bad2s0 := 6 } .d0 6 = 8 := by decide

/-- A byte is recorded at the word delivered (section 3.1: 0xFF and 0xE5 give 0x55544545). -/
theorem test_recording_writes_the_word :
    ((after (step recording)).discs[0]?.bind fun d => (d.track .side0 0).map fun t => t.cells.readWord 2)
      = some 0x55544545 := by decide +kernel

/-- A host that has no action left stops time (40_environment.md R143 f). -/
theorem test_no_action_no_time : step { recording with host := [] } = .next { recording with host := [] } := by rfl

/-- Discs as the host handles them (40_environment.md R125, R142, 00_scope.md R9): one in both drives, a dirty one
loaded, one with a track as short as the index pulse refused. -/
theorem test_one_disc_in_both_drives :
    (after (step { idle with host := [.setDisc .d1 (some 0)] })).disc .d1 = some blankDisc := by decide
theorem test_dirty_disc_is_loaded :
    goesOn (step { idle with
      discs := [{ blankDisc with dirty := some (.side0, 2) }], host := [.setDisc .d1 (some 0)] }) = true := by decide
theorem test_missing_disc_is_refused :
    step { idle with host := [.setDisc .d1 (some 1)] } = .refused .noSuchDisc := by rfl
theorem test_short_track_is_refused :
    step { idle with cfg := { idle.cfg with indexPulseWords := 4 }, host := [.newDisc blankDisc] }
      = .refused .trackTooShort := by rfl
theorem test_new_disc_is_the_next : (after (step { idle with host := [.newDisc protectedDisc] })).discs
    = [blankDisc, protectedDisc] := by decide

/-- No index edge without a disc (45_bitstream.md R272). -/
theorem test_no_edge_without_a_disc :
    (sampleIndex .d0 { loaded with unload := some 1, drive0 := { loaded.drive0 with disc := none } }).unload = some 1 := by
  decide
theorem test_edge_with_a_disc : (sampleIndex .d0 { loaded with unload := some 2 }).unload = some 1 := by decide

/-! ## Hypotheses that can be met: for each statement, states and operands at the edges of its clauses -/

/-- `DecodeOfEncodeIsTheInstruction`. -/
theorem witness_wellFormed : (Instr.rdData 4).wf = true ∧ (Instr.rdUnmapped 3).wf = true ∧ (Instr.wrData 7 0).wf = true := by
  decide

/-- `EncodeOfDecodeIsTheFrame`. -/
theorem witness_frame : decode (.read 7) = .ok (.rdData 7) ∧ decode (.command [0xFD, 0x22]) = .ok (.readSpecial 3 0x22) := by
  decide

/-- `DocumentedCodesTakeTheirParameters`, its first and last row. -/
theorem witness_rows :
    (∃ i, decode (.command [0x00, 1, 2, 3, 4, 5]) = .ok i) ∧ (∃ i, decode (.command [0xFD, 1]) = .ok i) :=
  ⟨⟨_, rfl⟩, ⟨_, rfl⟩⟩

/-- `UnmodelledCommandBytesAreRefused`: idle with codes 0x01 and 0x3F, and busy. -/
theorem witness_unmodelled :
    idle.busy = false ∧ Op.ofCode (codeOf 0x41) = none ∧ Op.ofCode (codeOf 0x7F) = none
      ∧ (running 0x69 .seekStep).busy = true := by decide

/-- `StepRunsTheDecodedInstruction`. -/
theorem witness_step : ({ idle with host := [.access (.read 0)] } : State).host = .access (.read 0) :: []
    ∧ decode (.read 0) = .ok .rdStatus := by decide

/-- `CommandIsItsByteWrites`, `DriveCommandNeedsADrive` (select bits 00 and 11) and the drive statements' frames. -/
theorem witness_command :
    encode (.seek 1 5) = .command [0x69, 5] ∧ encode (.seek 0 5) = .command [0x29, 5]
      ∧ encode (.seek 3 5) = .command [0xE9, 5] ∧ Op.ofCode (codeOf 0x69) = some .seek ∧ Op.seek.isDrive = true
      ∧ idle.busy = false := by decide

/-- `DataAccessesServeTheRequest`: the first and the last offset. -/
theorem witness_dataOffsets : 4 ≤ (4 : BitVec 3).toNat ∧ 4 ≤ (7 : BitVec 3).toNat := by decide

/-- `UnmappedAccessesChangeNothing`: both offsets. -/
theorem witness_unmappedOffsets :
    ((2 : BitVec 3) = 2 ∨ (2 : BitVec 3) = 3) ∧ ((3 : BitVec 3) = 2 ∨ (3 : BitVec 3) = 3) := by decide

/-- A seek that has its byte and waits for its parameter, and a `SPECIFY` that waits for its first of four. -/
def awaiting : State := { idle with cmd := 0x69, busy := true, nexp := 1, fsm := .params }
def awaitingFour : State := { idle with cmd := 0x75, busy := true, nexp := 4, fsm := .params }

/-- `CommandByteIsAccepted`, `ParameterByteIsCollected`. -/
theorem witness_parameters :
    idle.fsm ≠ .params ∧ awaiting.fsm = .params ∧ awaiting.busy = true ∧ awaiting.params.length + 1 = awaiting.nexp
      ∧ encode (.seek 1 5) = .command (awaiting.cmd :: (awaiting.params ++ [5]))
      ∧ awaitingFour.fsm = .params ∧ awaitingFour.params.length + 1 ≠ awaitingFour.nexp := by decide

/-- `ResetRegisterResets`. -/
theorem witness_reset : (0xFE : Byte).getLsbD 0 = false ∧ (0x01 : Byte).getLsbD 0 = true := by decide

/-- `InputPortShowsTheDrive`: a present current drive, an absent one, and none. -/
theorem witness_inputPort :
    loaded.cur = some .d0 ∧ present loaded.cfg .d0 = true
      ∧ ({ idle with driveOut := 0x80 } : State).cur = some .d1 ∧ present idle.cfg .d1 = false ∧ idle.cur = none := by
  decide

/-- `SpecifyLoadsItsGroup`, `WriteSpecialWritesOneRegister`, `ReadSpecialReadsOneRegister`: the addresses at the edges
of their sets, met by the idle machine. -/
theorem witness_addresses :
    idle.busy = false
      ∧ (0x10 : Byte) ∈ ([0x10, 0x11, 0x12, 0x17, 0x18, 0x19, 0x1A] : List Byte)
      ∧ (0x1A : Byte) ∈ ([0x10, 0x11, 0x12, 0x17, 0x18, 0x19, 0x1A] : List Byte)
      ∧ (0x22 : Byte) ∉ ([0x10, 0x11, 0x12, 0x17, 0x18, 0x19, 0x1A, 0x23] : List Byte)
      ∧ (0x0F : Byte) ∉ ([0x10, 0x11, 0x12, 0x17, 0x18, 0x19, 0x1A, 0x22, 0x23] : List Byte)
      ∧ (0x0E : Byte) ≠ 0x0D ∧ (0x0E : Byte) ≠ 0x10 ∧ (0x0E : Byte) ≠ 0x18 := by decide

/-- The idle controller in DMA mode. -/
def dmaMode : State := { idle with regs := { regs0 with mode := 0xC0 } }

/-- `DispatchRefusesModesAndOperands`, clause by clause. -/
theorem witness_dispatchRefusals :
    selected 0x53 = some .d0 ∧ Op.read128.isTransfer = true ∧ dmaMode.regs.mode.getLsbD 0 = false
      ∧ idle.regs.mode.getLsbD 0 = true
      ∧ encode (.readVar 1 0 0 0xE0) = .command [0x53, 0, 0, 0xE0] ∧ (0xE0 : Byte).toNat % 32 = 0
      ∧ encode (.readId 1 0 0 0) = .command [0x5B, 0, 0, 0]
      ∧ encode (.format 1 0 0 0x20 0 0) = .command [0x63, 0, 0, 0x20, 0, 0]
      ∧ encode (.format 1 0 0 0x21 1 0) = .command [0x63, 0, 0, 0x21, 1, 0]
      ∧ encode (.format 1 0 0 0x20 1 0) = .command [0x63, 0, 0, 0x20, 1, 0] := by decide

/-- The idle controller with a write-protected disc in drive 0. -/
def protectedIdle : State := { idle with discs := [protectedDisc] }

/-- `MechanicalChecksEndAtDispatch`: an absent drive, one with no disc, and a protected disc; unloading not at once. -/
theorem witness_mechanicalChecks :
    encode (.format 1 0 0 0x21 0 0) = .command [0x63, 0, 0, 0x21, 0, 0] ∧ operandsAccepted .format [0, 0, 0x21, 0, 0]
      ∧ idle.regs.nonDma = true ∧ selected 0x63 = some .d0 ∧ selected 0xA3 = some .d1 ∧ present idle.cfg .d1 = false
      ∧ ({ idle with drive0 := Drive.powerOn } : State).disc .d0 = none
      ∧ (protectedIdle.disc .d0).isSome = true ∧ protectedIdle.protectedDisc .d0 = true
      ∧ idle.regs.headLoadUnload.toNat / 16 ≠ 0 := by
  refine ⟨by decide, ⟨by decide, by decide⟩, ?_⟩
  decide

/-- A command the idle controller can start, once its operands are accepted. -/
theorem startable (op : Op) (ps : List Byte) (s : State) (ho : operandsAccepted op ps) (hr : s.regs = regs0)
    (hc : s.cfg = idle.cfg) (hk : s.discs = [blankDisc]) (hd : s.drive0.disc = some 0) : Startable op .d0 ps s := by
  have h : s.disc .d0 = some blankDisc := by
    show s.drive0.disc.bind (fun k => s.discs[k]?) = _
    rw [hd, hk]
    rfl
  exact {
    nonDma := by rw [hr]; intro _; decide
    operands := ho
    drive_present := by rw [hc]; decide
    disc_loaded := by rw [h]; decide
    writable := by intro _; unfold State.protectedDisc; rw [h]; decide }

/-- The idle controller with its head on track 2. -/
def away : State := { idle with drive0 := { Drive.powerOn with disc := some 0, phys := 2 } }

/-- `DriveCommandTakesItsFirstStep`: a step towards a track, and one towards track 0. -/
theorem witness_firstStep :
    idle.busy = false ∧ idle.timer = none ∧ idle.cfg.recalStepLimit ≠ 0 ∧ selected 0x4A = some .d0
      ∧ encode (.write128 1 2 0) = .command [0x4A, 2, 0]
      ∧ Startable .write128 .d0 [2, 0] idle ∧ needsStep .d0 [2, 0] idle
      ∧ Startable .write128 .d0 [0, 0] away ∧ needsStep .d0 [0, 0] away := by
  refine ⟨by decide, by decide, by decide, by decide, by decide, startable _ _ idle trivial rfl rfl rfl rfl, ?_,
    startable _ _ away trivial rfl rfl rfl rfl, ?_⟩
  · unfold needsStep; decide
  · unfold needsStep; decide

/-- `DriveCommandInPlaceLoadsTheHead` (the head up) and `DriveCommandInPlaceGoesOn` (the head down). -/
theorem witness_inPlace :
    Startable .write128 .d0 [0, 0] idle ∧ ¬ needsStep .d0 [0, 0] idle ∧ 0 < headDelay (selOf 0x4A) idle
      ∧ Startable .write128 .d0 [0, 0] loaded ∧ ¬ needsStep .d0 [0, 0] loaded ∧ headDelay (selOf 0x4A) loaded = 0
      ∧ loaded.busy = false ∧ loaded.timer = none := by
  refine ⟨startable _ _ idle trivial rfl rfl rfl rfl, ?_, by decide, startable _ _ loaded trivial rfl rfl rfl rfl, ?_, by decide,
    by decide, by decide⟩
  · unfold needsStep; decide
  · unfold needsStep; decide

/-- `DriveCommandInPlaceGoesOn` for a seek and a format. -/
theorem witness_inPlaceOthers :
    Startable .seek .d0 [0] loaded ∧ ¬ needsStep .d0 [0] loaded
      ∧ Startable .format .d0 [0, 0, 0x21, 0, 0] loaded ∧ ¬ needsStep .d0 [0, 0, 0x21, 0, 0] loaded
      ∧ encode (.seek 1 0) = .command [0x69, 0] ∧ encode (.format 1 0 0 0x21 0 0) = .command [0x63, 0, 0, 0x21, 0, 0] := by
  refine ⟨startable _ _ loaded trivial rfl rfl rfl rfl, ?_, startable _ _ loaded ⟨by decide, rfl⟩ rfl rfl rfl rfl, ?_,
    by decide, by decide⟩
  · unfold needsStep; decide
  · unfold needsStep; decide

/-- `OperandsComeFromTheParameters`: a form of each list. -/
theorem witness_forms :
    Op.writeDel128 ∈ ([.read128, .readDel128, .verify128, .write128, .writeDel128] : List Op)
      ∧ Op.writeDelVar ∈ ([.readVar, .readDelVar, .verifyVar, .writeVar, .writeDelVar] : List Op) := by decide

/-- `FmCodecRoundTrips`, `GoodFieldsLeaveNoResidue`: the last bit of a byte, and a field whose CRC is as read. -/
theorem witness_codec : 7 < 8 ∧ (0x1234 : Half) = (0x12 : Byte) ++ (0x34 : Byte) := by decide

/-- `InstructionsLeaveTheDiscs`. -/
theorem witness_execNext : exec .rdStatus idle = .next { idle with readData := 0x00 } := by rfl

/-- `StepPulseMovesTheHead`, at its smallest drive, and between tracks of 4 and 6 words. -/
theorem witness_stepPulse :
    let uneven : State := { idle with
      discs := [{ blankDisc with
        side0 := [{ capacity := 4, length := 4, cells := [] }, { capacity := 6, length := 6, cells := [] }] }] }
    1 ≤ ({ Params.vectors with maxTrack := 1 } : Params).maxTrack ∧ 1 ≤ uneven.cfg.maxTrack
      ∧ trackLen uneven.cfg (uneven.disc .d0) .side0 0 = 4
      ∧ trackLen uneven.cfg (uneven.disc .d0) .side0 ((seekTrack .d0 true uneven).drive .d0).phys = 6
      ∧ trackLen idle.cfg (idle.disc .d0) .side0 0
        = trackLen idle.cfg (idle.disc .d0) .side0 ((seekTrack .d0 true idle).drive .d0).phys := by decide

/-- A seek with `k` steps to go. -/
def seeking (recal : Bool) (k phys : Nat) : State :=
  { waiting 0x69 .seekStep .step with
    seek := { target := 2, recal := recal, dirIn := !recal, steps := k, stepped := true, newlyLoaded := false }
    drive0 := { Drive.powerOn with disc := some 0, phys := phys, rotation := some { expiry := 128, seq := 0 } } }

/-- `SeekTimerStepsOrFinishes`, its first part, clause by clause: a step, a recalibrate that has used its steps, the end
of each kind of seek. -/
theorem witness_seekTimer :
    (seeking false 1 0).fsm = .seekStep ∧ (seeking false 1 0).cont = .step ∧ (seeking false 1 0).cur = some .d0
      ∧ ({ seeking false 1 0 with timer := none } : State).timer = none
      ∧ (seeking false 1 0).seek.steps ≠ 0
      ∧ (seeking true 0 1).seek.recal = true ∧ (seeking true 0 1).drive0.phys ≠ 0 ∧ (seeking true 0 1).seek.steps = 0
      ∧ (seeking true 0 0).drive0.phys = 0 ∧ (seeking false 0 2).seek.recal = false := by decide

/-- `SeekTimerStepsOrFinishes`, its second part: a seek, a format and a read. -/
theorem witness_seekDelay :
    (waiting 0x69 .seekSettle .postSeek).cont = .postSeek
      ∧ (waiting 0x69 .seekSettle .postSeek).command = some .seek
      ∧ (waiting 0x63 .seekSettle .postSeek).command = some .format
      ∧ (waiting 0x53 .seekSettle .postSeek).command = some .readVar := by decide

/-- `SeekEndsAfterItsSteps` with no step and with two, `RecalibrateReachesTrackZero` with as many steps as tracks. -/
theorem witness_wholeSeek :
    (seeking false 0 2).timer = some { expiry := 50, seq := 1 } ∧ (seeking false 0 2).seek.steps = 0
      ∧ (seeking false 2 0).seek.recal = false ∧ (seeking true 2 2).seek.recal = true
      ∧ (seeking true 2 2).seek.dirIn = false ∧ (seeking true 2 2).timer.isSome = true
      ∧ (seeking true 2 2).drive0.phys ≤ (seeking true 2 2).seek.steps := by decide

/-- `FieldSlotsMakeBytes`: the last slot but one of a byte and the last, in each field; a byte boundary. -/
theorem witness_chunk :
    (running 0x53 .inId).nbits = 0 ∧ (running 0x53 .inId).fsm = .inId ∧ (running 0x53 .inData).fsm = .inData
      ∧ ({ running 0x53 .inId with nbits := 30 } : State).nbits + 1 < 32
      ∧ 32 ≤ ({ running 0x53 .inData with nbits := 31 } : State).nbits + 1 := by decide

/-- A byte's last slot with pulses off the grid: the mark of 95_test_vectors.md section 3.1 with bit 1 set as well gives
the byte 0xFE, and its clock pattern 0xC7 is an error. -/
theorem test_last_slot_ignores_the_pulses_between :
    let s : State := { running 0x53 .inId with nbits := 31, sr := 0x2A888AAB }
    (onSlot s false).cap.idb = [0xFE] ∧ (onSlot s false).cap.clkErr = true ∧ (onSlot s false).nbits = 0 := by
  decide +kernel

/-- `SearchesFindTheirMarks`: the slot before each mark, the last slots of the window and of the skipped gap, a state
that only shifts. -/
theorem witness_marks :
    (running 0x53 .searchId).fsm = .searchId ∧ ((0x2A888AAA : Slots) <<< 1 ||| 0) = 0x55111554
      ∧ (running 0x53 .searchData).fsm = .searchData ∧ ((0x2A888A2A : Slots) <<< 1 ||| 1) = 0x55111455
      ∧ ((0x2A888A22 : Slots) <<< 1 ||| 0) = 0x55111444
      ∧ ((0 : Slots) <<< 1 ||| 0) ≠ 0x55111455 ∧ ((0 : Slots) <<< 1 ||| 0) ≠ 0x55111444
      ∧ 1278 + 1 < (running 0x53 .searchData).cfg.dataMarkWindow ∧ (running 0x53 .searchData).cfg.dataMarkWindow ≤ 1279 + 1
      ∧ (running 0x4B .writeSkipGap2).fsm = .writeSkipGap2
      ∧ loaded.fsm ∈ ([.idle, .params, .seekStep, .seekSettle, .formatWaitIndex, .completing] : List Fsm) := by decide

/-- A write whose gap 2 is skipped with this chunk. -/
def skipping : State := { running 0x4B .writeSkipGap2 with lastIndex := true, nbits := 320 }

/-- `PulsesReachTheController`: another drive, an edge and none, a state that writes, a gap skipped and not, no disc. -/
theorem witness_pulses :
    loaded.cur ≠ some .d1 ∧ loaded.cur = some .d0 ∧ (loaded.disc .d0).isSome = true ∧ loaded.index .d0 = true
      ∧ loaded.lastIndex = false ∧ recording.fsm.writes = true ∧ recording.index .d0 = false
      ∧ skipping.fsm.writes = false ∧ (onSlots 0 32 skipping).fsm = .writeSkipGap2
      ∧ (onSlots 0 32 skipping).wr.skipDone = true ∧ (onSlots 0 31 skipping).wr.skipDone = false
      ∧ ({ loaded with drive0 := Drive.powerOn } : State).disc .d0 = none ∧ loaded.fsm = .idle := by decide +kernel

/-- `RotationDeliversAndTurns`: a revolution of no words; the last word but one and the last of a track of four; a chunk
that stops. -/
theorem witness_rotation :
    let last : State := { recording with drive0 := { recording.drive0 with word := 3 } }
    let stuck : State := { recording with discs := [{ blankDisc with dirty := some (.side1, 2) }] }
    trackLen { idle.cfg with trackWords := 0 } none .side0 0 = 0
      ∧ trackLen recording.cfg (recording.disc .d0) (recording.drive .d0).side (recording.drive .d0).phys = 4
      ∧ (recording.drive .d0).word + 1 < 4 ∧ 4 ≤ (last.drive .d0).word + 1
      ∧ goesOn (onPulses .d0 0 32 recording) = true ∧ goesOn (onPulses .d0 0 32 last) = true
      ∧ goesOn (onPulses .d0 0 32 stuck) = false := by decide +kernel

/-- `BytesAreOfferedOrLate`: the last byte of a sector and of an ID, pending and served, offered and only checked; then
the two CRC bytes of each. -/
theorem witness_bytes :
    let last : State := { running 0x53 .inData with cap := { idle.cap with nbytes := 127, idb := [0, 0, 3] } }
    let crc1 : State := { last with cap := { idle.cap with nbytes := 128, idb := [0, 0, 3, 0] } }
    let crc2 : State := { last with cap := { idle.cap with nbytes := 129, idb := [0, 0, 3, 0, 1] } }
    last.cap.nbytes < last.op.size ∧ last.cap.idb.length < 4 ∧ last.isTransfer = true ∧ last.drq = false
      ∧ ({ last with drq := true } : State).drq = true ∧ ({ last with cmd := 0x5F } : State).isTransfer = false
      ∧ ({ last with cmd := 0x5B } : State).command = some .readId ∧ last.command ≠ some .readId
      ∧ crc1.cap.nbytes = crc1.op.size ∧ crc2.cap.nbytes = crc2.op.size + 1
      ∧ crc1.cap.idb.length = 4 ∧ crc2.cap.idb.length = 5 := by decide

/-- `IdFieldEnds`: a matching header of track 0 and sector 3 whose CRC is 0x1234, good and bad; one of another sector;
the index counts at which a header passed over goes on and ends the command. -/
theorem witness_idField :
    let s : State := { running 0x53 .inId with
      op := { idle.op with sector := 3 }, cap := { idle.cap with crc := 0x1234, idb := [0, 0, 3, 1, 0x12, 0x34] } }
    s.cap.crc = s.cap.idb.getD 4 0 ++ s.cap.idb.getD 5 0 ∧ s.cap.idb.getD 0 0 = s.op.reqTrack
      ∧ s.cap.idb.getD 2 0 = s.op.sector ∧ s.command ≠ some .readId ∧ s.inWriteFamily = false ∧ s.cap.clkErr = false
      ∧ ({ s with cmd := 0x4B } : State).inWriteFamily = true ∧ ({ s with cmd := 0x5B } : State).command = some .readId
      ∧ ({ s with cap := { s.cap with crc := 0 } } : State).cap.crc ≠ s.cap.idb.getD 4 0 ++ s.cap.idb.getD 5 0
      ∧ s.cap.idb.getD 2 0 ≠ ({ s with op := { s.op with sector := 4 } } : State).op.sector
      ∧ ({ s with indexCount := 2 } : State).indexCount < s.cfg.idSearchLimit
      ∧ s.cfg.idSearchLimit ≤ ({ s with indexCount := 3 } : State).indexCount
      ∧ s.cfg.idCrcAnyHeader = false ∧ ({ s.cfg with idCrcAnyHeader := true } : Params).idCrcAnyHeader = true
      ∧ ({ s with op := { s.op with count := 1 } } : State).op.count - 1 = 0
      ∧ ({ s with op := { s.op with count := 2 } } : State).op.count - 1 ≠ 0 := by decide +kernel

/-- `DataFieldEnds`: late, with a clock error, with a bad and with a good CRC, deleted and not, the last and not. -/
theorem witness_dataField :
    let s : State := { running 0x53 .inData with cap := { idle.cap with crc := 0x1234, crcb := [0x12, 0x34] } }
    (s.isTransfer && ({ s with drq := true } : State).drq) = true ∧ (s.isTransfer && s.drq) = false
      ∧ s.cap.crc = s.cap.crcb.getD 0 0 ++ s.cap.crcb.getD 1 0
      ∧ (0 : Half) ≠ s.cap.crcb.getD 0 0 ++ s.cap.crcb.getD 1 0
      ∧ s.command = some .readVar ∧ ({ s with cmd := 0x57 } : State).command ≠ some .readVar
      ∧ s.op.count - 1 = 0 ∧ ({ s with op := { s.op with count := 2 } } : State).op.count - 1 ≠ 0 := by decide +kernel

/-- `IndexEdgesCount`, state by state and at the edges of the two counts. -/
theorem witness_indexEdges :
    idle.fsm = .idle ∧ idle.unload = none ∧ ({ loaded with unload := some 1 } : State).unload = some 1
      ∧ ({ loaded with unload := some 2 } : State).unload = some (0 + 2)
      ∧ (running 0x53 .searchId).cfg.idSearchLimit ≤ ({ running 0x53 .searchId with indexCount := 2 } : State).indexCount + 1
      ∧ ({ running 0x53 .searchId with indexCount := 1 } : State).indexCount + 1 < (running 0x53 .searchId).cfg.idSearchLimit
      ∧ (running 0x63 .formatWrite).wr.fmtDone = false
      ∧ ({ running 0x63 .formatWrite with wr := { emptyWrite with fmtDone := true } } : State).wr.fmtDone = true := by
  decide

/-- `EmitRecordsOneItem`: word 2 of a blank track of four words. -/
theorem witness_emit :
    recording.wr.fifo = [] ∧ recording.wr.wseq = .fill 0xE5 :: [.crcHi] ∧ (recording.drive .d0).disc = some 0
      ∧ recording.discs[0]? = some blankDisc ∧ blankDisc.writeProtect = false ∧ blankDisc.dirty = none
      ∧ blankDisc.track (recording.drive .d0).side (recording.drive .d0).phys
        = some { capacity := 4, length := 4, cells := [] }
      ∧ Track.wf { capacity := 4, length := 4, cells := [] } = true
      ∧ (recording.drive .d0).word < 4 ∧ (recording.drive .d0).phase = .phase0 := by decide

/-- The last byte of a data field, the field being the last of `count`. -/
def lastByte (count : Nat) : State :=
  { recording with op := { idle.op with count := count }, wr := { emptyWrite with wseq := [.lit 0xFF 0xFF] } }

/-- `EmitRecordsOneItem`, the end of a field: the last item in and out of `WRITE_DATA`, of the last sector and of the
last but one; a host byte after which none and one is left. -/
theorem witness_emitEnd :
    (lastByte 1).wr.wseq = .lit 0xFF 0xFF :: [] ∧ WriteItem.lit 0xFF 0xFF ≠ .gap4 ∧ (lastByte 1).fsm = .writeData
      ∧ ({ lastByte 1 with fsm := .formatWrite } : State).fsm ≠ .writeData
      ∧ (lastByte 1).op.count - 1 = 0 ∧ (lastByte 2).op.count - 1 ≠ 0 ∧ recording.drq = false
      ∧ (decide (1 < 1)) = false ∧ (decide (1 < 2)) = true := by decide

/-- 47_write_commands.md R345, 46_read_commands.md R306: after the last sector's last byte the command has ended with
0x00, after another the next sector is sought; the gate is off. -/
theorem test_last_byte_ends_the_write :
    (after (emit .d0 32 (lastByte 1))).result = 0x00 ∧ (after (emit .d0 32 (lastByte 1))).status = 0x18
      ∧ (after (emit .d0 32 (lastByte 1))).writeGate = false := by decide +kernel
theorem test_last_byte_seeks_the_next_sector :
    (after (emit .d0 32 (lastByte 2))).fsm = .searchId ∧ (after (emit .d0 32 (lastByte 2))).op.sector = 1
      ∧ (after (emit .d0 32 (lastByte 2))).writeGate = false := by decide +kernel

/-- 47_write_commands.md R346: a host byte is taken, and the next one asked for. -/
theorem test_host_byte_asks_for_the_next :
    let s : State := { recording with wr := { emptyWrite with wseq := [.host, .host], hostLeft := 2 } }
    (after (emit .d0 32 s)).drq = true ∧ (after (emit .d0 32 s)).irq = true
      ∧ (after (emit .d0 32 s)).wr.hostLeft = 1 := by decide +kernel

/-- `LateHostByteWritesNothing`. -/
theorem witness_lateByte :
    let s : State := { recording with drq := true, wr := { emptyWrite with wseq := [.host] } }
    s.inReadFamily = false ∧ s.wr.fifo = [] ∧ s.wr.wseq = .host :: [] ∧ s.drq = true := by decide

/-- The recording machine's drives follow its lines. -/
theorem recording_lines : recording.LinesInv where
  spins := by intro n; cases n <;> decide
  side_follows := by intro n; cases n <;> decide

/-- `StepWritesOnlyUnderTheHead`: a step that does write. -/
theorem witness_stepWrites :
    recording.LinesInv ∧ (∀ disc rest, recording.host ≠ .newDisc disc :: rest) ∧ goesOn (step recording) = true
      ∧ (after (step recording)).discByte 0 .side0 0 8 ≠ recording.discByte 0 .side0 0 8 :=
  ⟨recording_lines, (fun _ _ h => nomatch h), by decide +kernel, by decide +kernel⟩

/-- `CompletionLatchesTheResult`: no delay, unload counts of 15, 0, and one between, and a code that waits. -/
theorem witness_completion :
    (waiting 0x53 .completing (.latch 0x18)).cont = .latch 0x18 ∧ idle.cfg.completionDelay = 0 ∧ (0xF1 : Byte).toNat / 16 = 15 ∧ (0x01 : Byte).toNat / 16 = 0
      ∧ (0x11 : Byte).toNat / 16 ≠ 15 ∧ (0xE1 : Byte).toNat / 16 ≠ 0 := by decide

/-- 60_exceptions.md R412 to R414: the timer latches the code that waits, and the unloading of 2 edges begins. -/
theorem test_timer_latches :
    let t := after (onTimer (waiting 0x53 .completing (.latch 0x18)))
    t.result = 0x18 ∧ t.status = 0x18 ∧ t.intLine = true ∧ t.fsm = .idle ∧ t.unload = some 2 := by decide +kernel

/-- A seek whose settle delay is about to end. -/
def settling : State := { waiting 0x69 .seekSettle .postSeek with host := [.advance 60] }

theorem settling_sequence : settling.SequenceInv where
  busy_iff := by decide
  line_follows := by decide
  no_step_line := by decide
  timer_iff := by decide
  cont_matches := by decide
  gate_on := by decide
  selected := by decide
  params_missing := by decide

theorem settling_phase : settling.PhaseInv where
  fits := by decide
  latched := by
    intro code op h
    exact absurd h (by decide)
  request_runs := by decide

theorem settling_lines : settling.LinesInv where
  spins := by intro n; cases n <;> decide
  side_follows := by intro n; cases n <;> decide

theorem settling_discs : settling.DiscInv where
  discs_ok := by decide
  references := by
    intro n k h
    cases n
    · rw [← Option.some.inj h]; decide
    · cases h

theorem settling_flush : settling.FlushInv where
  under_head := by
    intro n d h
    cases n
    · rw [← Option.some.inj h]; exact .inl rfl
    · cases h
  not_shared := by
    intro k _ h
    cases h

/-- `StepKeepsTheDiscs`, its second clause: the host loads the second of two flushed discs into the other drive. -/
theorem witness_loads :
    State.loadsFlushedDisc { idle with discs := [blankDisc, protectedDisc], host := [.setDisc .d1 (some 1)] } := by
  intro n k rest h
  cases h
  refine ⟨fun d hd => ?_, fun m hm => ?_⟩
  · rw [← Option.some.inj hd]; rfl
  · cases m
    · decide
    · exact absurd rfl hm

theorem settling_time : settling.TimeInv := by
  refine ⟨?_, ?_⟩
  · intro x h
    rw [← Option.some.inj h]
    decide
  · intro n x h
    cases n
    · rw [← Option.some.inj h]
      decide
    · cases h

theorem settling_ranges : settling.RangeInv where
  params_range := by decide
  slots_range := by decide
  size_range := ⟨0, by decide⟩
  count_range := by decide
  steps_range := by decide
  id_range := by decide
  data_range := by decide
  fifo_short := by decide
  unload_range := by intro k h; cases h
  phys_range := by intro _ n; cases n <;> decide

/-- The invariants' statements, `ResultsAreThoseOfTheClass`, `InterruptRisesOnlyWithACause` and
`InternalFaultsAreUnreachable`: a state that meets them all, whose step ends a command. -/
theorem witness_settling :
    goesOn (step settling) = true ∧ settling.busy = true ∧ (after (step settling)).busy = false
      ∧ (after (step settling)).resultFull = true ∧ (after (step settling)).command = some .seek
      ∧ settling.irq = false ∧ (after (step settling)).irq = true ∧ (after (step settling)).result = 0x00 := by
  decide +kernel

/-- `NextTaskIsTheEarliest`: a task that is armed, one that is not, and another. -/
theorem witness_tasks :
    settling.task .timer ≠ none ∧ settling.task (.rotation .d1) = none ∧ Task.rotation .d0 ≠ .rotation .d1
      ∧ idle.nextTask = none := by decide

/-- `StepKeepsTheDiscs`, the host's own disc changes: a disc that fits, one that is none, one with a track too short;
a drive command that runs and none; a disc there is and the first number past the last. -/
theorem witness_hostDiscs :
    let short : Disc := { blankDisc with side0 := List.replicate 3 { capacity := 4, length := 1, cells := [] } }
    let odd : Disc := { blankDisc with side0 := [] }
    blankDisc.wf = true ∧ blankDisc.fits idle.cfg = true ∧ odd.wf = false ∧ short.wf = true
      ∧ short.fits idle.cfg = false ∧ (running 0x53 .searchId).fsm.running = true ∧ idle.fsm.running = false
      ∧ 0 < idle.discs.length ∧ idle.discs.length ≤ 1 := by decide

/-- 40_environment.md R129, R142: a disc removed while the drive spins leaves its rotation; a flag set is the disc's. -/
theorem test_disc_removed_keeps_the_rotation :
    let t := after (step { loaded with host := [.setDisc .d0 none] })
    t.drive0.disc = none ∧ t.drive0.rotation = loaded.drive0.rotation := by decide +kernel
theorem test_disc_protected :
    (after (step { loaded with host := [.setWriteProtect 0 true] })).protectedDisc .d0 = true := by decide +kernel

/-- `NextTaskIsTheEarliest`, `AdvanceFiresTheDueTaskAndEndsOnItsTick`: something armed, and an advance that stops short of it or
reaches it. -/
theorem witness_time :
    settling.nextTask = some (.timer, { expiry := 50, seq := 1 })
      ∧ (after (step { settling with host := [.advance 49] })).epoch = 49
      ∧ (after (step { settling with host := [.advance 50] })).epoch = 50 := by decide +kernel

end Sys2Proof.Machine.Tests
end

section
/-! PROOFS. The bits of the status byte (10_state.md R45) and the access that reads it. -/

namespace Sys2Proof.Machine

/-! ## Bits of the flag bytes -/

/-- A flag stands at its own bit of a byte and nowhere else. -/
@[simp] theorem getLsbD_flagBit (b : Bool) (i j : Nat) :
    (flagBit b i).getLsbD j = (b && decide (j < 8 ∧ j = i)) := by
  cases b with
  | false => simp [flagBit]
  | true =>
    have same_bit : (j < 8 ∧ i ≤ j) ∧ j - i = 0 ↔ j < 8 ∧ j = i := by omega
    rw [Bool.eq_iff_iff]
    simpa [flagBit, BitVec.getLsbD_one] using same_bit

/-- Every bit of the status byte, those past its width included (10_state.md R45). -/
theorem State.getLsbD_status (s : State) (j : Nat) :
    s.status.getLsbD j
      = (s.busy && decide (j = 7) || s.resultFull && decide (j = 4) || s.irq && decide (j = 3)
        || s.drq && decide (j = 2)) := by
  have flag_in_byte (i : Nat) (hi : i < 8) : (j < 8 ∧ j = i) ↔ j = i := by omega
  simp only [State.status, BitVec.getLsbD_or, getLsbD_flagBit, flag_in_byte 7 (by decide),
    flag_in_byte 4 (by decide), flag_in_byte 3 (by decide), flag_in_byte 2 (by decide)]

/-! ## `RD_STATUS` -/

/-- `RD_STATUS` answers the status byte (42_host_registers.md R171). -/
theorem exec_rdStatus (s : State) : exec .rdStatus s = .next { s with readData := s.status } := rfl

/-- Settles O8: the byte is the status byte, whose bits are `State.getLsbD_status`. -/
theorem statusReadGivesTheFlags : Obligations.StatusReadGivesTheFlags := by
  intro s
  refine ⟨s.status, exec_rdStatus s, ?_⟩
  simp only [State.getLsbD_status]
  simp

end Sys2Proof.Machine
end

section
/-! PROOFS. A step pulse (40_environment.md R134) and the angle it keeps (R137). -/

namespace Sys2Proof.Machine

/-! ## The angular position -/

/-- Between tracks of one length the word index stays, no words included. -/
theorem rescale_of_eq {word old new : Nat} (same : old = new) : rescale word old new = word := if_pos same

/-- Between tracks of two lengths the word index is scaled. -/
theorem rescale_of_ne {word old new : Nat} (differ : old ≠ new) (words : old ≠ 0) :
    rescale word old new = word * new / old := by
  unfold rescale
  rw [if_neg differ, if_neg words]

/-! ## Where a step ends -/

/-- The step is clamped to the drive's tracks at both ends. The model's lower limit is the truncated subtraction of
`Nat`; it may be taken before the upper one, as a drive has at least one track. -/
theorem steppedTrack_clamped {c : Params} (tracks : 1 ≤ c.maxTrack) (double dirIn : Bool) (phys : Nat) :
    (steppedTrack c double dirIn phys : Int)
      = max 0 (min ((c.maxTrack : Int) - 1)
          ((phys : Int) + (if dirIn then 1 else -1) * (if double then 2 else 1))) := by
  unfold steppedTrack
  cases dirIn with
  | true => cases double <;> simp <;> omega
  | false => cases double <;> simp <;> omega

/-! ## The drive that steps -/

/-- The word index after a step is that of the angle before it, on the track the step reached. -/
theorem stepped_word (d : Drive) (c : Params) (disc : Option Disc) (double dirIn : Bool) :
    (d.stepped c disc double dirIn).word
      = rescale d.word (trackLen c disc d.side d.phys)
          (trackLen c disc d.side (d.stepped c disc double dirIn).phys) := rfl

/-- A step changes the track and the word index of its drive. -/
theorem stepped_only (d : Drive) (c : Params) (disc : Option Disc) (double dirIn : Bool) :
    d.stepped c disc double dirIn
      = { d with phys := (d.stepped c disc double dirIn).phys, word := (d.stepped c disc double dirIn).word } := rfl

/-- The drive a step pulse is sent to. -/
theorem seekTrack_drive_same (n : DriveId) (dirIn : Bool) (s : State) :
    (seekTrack n dirIn s).drive n = (s.drive n).stepped s.cfg (s.disc n) (doubleStep s.cfg n) dirIn := by
  rw [seekTrack_drive, if_pos rfl]

/-- The drive a step pulse is not sent to. -/
theorem seekTrack_drive_other {n m : DriveId} (dirIn : Bool) (s : State) (other : m ≠ n) :
    (seekTrack n dirIn s).drive m = s.drive m := by
  rw [seekTrack_drive, if_neg other]

/-- `seekTrack_frame`, with the values of the result. -/
theorem seekTrack_only (n : DriveId) (dirIn : Bool) (s : State) :
    seekTrack n dirIn s
      = { s with
          drive0 := (seekTrack n dirIn s).drive0
          drive1 := (seekTrack n dirIn s).drive1
          discs := (seekTrack n dirIn s).discs } := by
  obtain ⟨discs, drive0, drive1, moved⟩ := seekTrack_frame n dirIn s
  rw [moved]

/-- Settles O30: the track is `steppedTrack_clamped`'s, the word index `rescale`'s. -/
theorem stepPulseMovesTheHead : Obligations.StepPulseMovesTheHead := by
  rintro n dirIn s _ old new tracks rfl old_is new_is
  have word_is : ((seekTrack n dirIn s).drive n).word = rescale (s.drive n).word old new := by
    rw [old_is, new_is, seekTrack_drive_same, stepped_word]
  refine ⟨?track, ?same, ?scaled, ?drive, fun m => seekTrack_drive_other dirIn s, seekTrack_discs n dirIn s,
    seekTrack_only n dirIn s⟩
  case track =>
    rw [seekTrack_drive_same]
    exact steppedTrack_clamped tracks _ dirIn _
  case same =>
    intro same
    rw [word_is, rescale_of_eq same]
  case scaled =>
    intro differ words
    rw [word_is, rescale_of_ne differ words]
  case drive =>
    rw [seekTrack_drive_same]
    exact stepped_only _ _ _ _ _

end Sys2Proof.Machine
end

section
/-! PROOFS. The CRC's residue (41_codec.md R153). -/

namespace Sys2Proof.Machine

/-! ## The shifts of the CRC -/

/-- The bit shifted out goes to bit 0, as the polynomial is odd. -/
theorem getLsbD_crcShift_zero (x : Half) : (crcShift x).getLsbD 0 = x.getLsbD 15 := by
  unfold crcShift
  split <;> simp_all

/-- Every other bit is the one below it, with the polynomial's where a bit is shifted out. -/
theorem getLsbD_crcShift_succ (x : Half) {i : Nat} (below : i < 15) :
    (crcShift x).getLsbD (i + 1) = (x.getLsbD i ^^ (x.getLsbD 15 && (0x1021 : Half).getLsbD (i + 1))) := by
  have in_word : i + 1 < 16 := by omega
  unfold crcShift
  split <;> simp_all [Nat.lt_of_succ_lt in_word]

/-- A shift loses nothing: the bit it shifts out can be read from the result. -/
theorem crcShift_injective : Function.Injective crcShift := by
  intro x y same
  have top : x.getLsbD 15 = y.getLsbD 15 := by
    rw [← getLsbD_crcShift_zero, ← getLsbD_crcShift_zero, same]
  refine BitVec.eq_of_getLsbD_eq fun i in_word => ?_
  obtain below | rfl : i < 15 ∨ i = 15 := by omega
  · have next : (crcShift x).getLsbD (i + 1) = (crcShift y).getLsbD (i + 1) := by rw [same]
    rw [getLsbD_crcShift_succ x below, getLsbD_crcShift_succ y below, top] at next
    exact Bool.xor_left_inj.mp next
  · exact top

theorem crcShifts_injective (n : Nat) : Function.Injective (crcShifts n) := by
  induction n with
  | zero => exact Function.injective_id
  | succ n ih => exact ih.comp crcShift_injective

theorem crcShifts_zero_right (n : Nat) : crcShifts n 0 = 0 := by
  induction n with
  | zero => rfl
  | succ n ih => exact ih

/-- As long as no bit is shifted out, the polynomial stays out of it. -/
theorem crcShifts_of_small {n : Nat} {x : Half} (small : x.toNat * 2 ^ n < 2 ^ 16) :
    crcShifts n x = x <<< n := by
  induction n generalizing x with
  | zero => simp [crcShifts]
  | succ n ih =>
    have doubled : x.toNat * 2 * 2 ^ n < 2 ^ 16 := by rwa [Nat.mul_assoc, ← Nat.pow_succ']
    have half : x.toNat * 2 < 2 ^ 16 := Nat.lt_of_le_of_lt (Nat.le_mul_of_pos_right _ (by positivity)) doubled
    have top_clear : x.getLsbD 15 = false := Nat.testBit_lt_two_pow (by omega)
    have once : crcShift x = x <<< 1 := by rw [crcShift, top_clear, if_neg Bool.false_ne_true]
    have once_toNat : (x <<< 1).toNat = x.toNat * 2 := by
      rw [BitVec.toNat_shiftLeft, Nat.shiftLeft_eq, Nat.pow_one, Nat.mod_eq_of_lt half]
    calc crcShifts (n + 1) x = crcShifts n (x <<< 1) := by rw [crcShifts, once]
      _ = x <<< 1 <<< n := ih (by rwa [once_toNat])
      _ = x <<< (n + 1) := by rw [← BitVec.shiftLeft_add, Nat.add_comm]

/-! ## Bytes of the CRC -/

/-- A byte leaves 0 exactly if it is the CRC's high byte and the low one is 0. -/
theorem crcByte_eq_zero_iff (crc : Half) (b : Byte) : crcByte crc b = 0 ↔ crc = b.zeroExtend 16 <<< 8 := by
  rw [crcByte, ← crcShifts_zero_right 8, (crcShifts_injective 8).eq_iff]
  exact BitVec.xor_eq_zero_iff

/-- A byte brings the low byte of the CRC to the top exactly if it is the high one. -/
theorem crcByte_eq_high_iff (crc : Half) (hi lo : Byte) :
    crcByte crc hi = lo.zeroExtend 16 <<< 8 ↔ crc = hi ++ lo := by
  have lo_shifted : crcShifts 8 (lo.zeroExtend 16) = lo.zeroExtend 16 <<< 8 :=
    crcShifts_of_small (by have := lo.isLt; simp; omega)
  have pair : (hi ++ lo : Half) = lo.zeroExtend 16 ^^^ (hi.zeroExtend 16 <<< 8) := by
    refine BitVec.eq_of_getLsbD_eq fun i in_word => ?_
    rw [BitVec.getLsbD_append]
    by_cases low : i < 8
    · simp [low, in_word]
    · simp [low, in_word, BitVec.getLsbD_of_ge lo i (by omega)]
  rw [crcByte, ← lo_shifted, (crcShifts_injective 8).eq_iff, pair]
  exact xor_eq_iff_left_eq _ _ _

/-- The CRC leaves no residue exactly if it is the pair that is fed to it. -/
theorem crcBytes_pair_eq_zero_iff (crc : Half) (hi lo : Byte) : crcBytes crc [hi, lo] = 0 ↔ crc = hi ++ lo := by
  rw [← crcByte_eq_high_iff, ← crcByte_eq_zero_iff]
  rfl

/-! ## The controller's two tests -/

theorem idGood_iff (c : Capture) : idGood c = true ↔ c.crc = c.idb.getD 4 0 ++ c.idb.getD 5 0 := beq_iff_eq

theorem dataGood_iff (c : Capture) : dataGood c = true ↔ c.crc = c.crcb.getD 0 0 ++ c.crcb.getD 1 0 := beq_iff_eq

/-- Settles O34: both tests compare the CRC with the pair as read, which is `crcBytes_pair_eq_zero_iff`'s. -/
theorem goodFieldsLeaveNoResidue : Obligations.GoodFieldsLeaveNoResidue := by
  refine ⟨crcBytes_pair_eq_zero_iff, fun c => ?_, fun c => ?_⟩
  · rw [idGood_iff, crcBytes_pair_eq_zero_iff]
  · rw [dataGood_iff, crcBytes_pair_eq_zero_iff]

end Sys2Proof.Machine
end

section
/-! PROOFS. FM pulse words, bit by bit (41_codec.md R154, R155). -/

namespace Sys2Proof.Machine

/-! ## Bits to nibbles and back -/

/-- A spread byte has its bits at the nibbles' bits 0 and nothing elsewhere. -/
theorem getLsbD_spread (b : Byte) (j : Nat) : (spread b).getLsbD j = (decide (j % 4 = 0) && b.getLsbD (j / 4)) := by
  by_cases in_word : j < 32
  · simp only [spread, BitVec.getLsbD_setWidth, BitVec.getLsbD_append, BitVec.getLsbD_ofBool, BitVec.getLsbD_zero]
    interval_cases j <;> simp
  · rw [BitVec.getLsbD_of_ge _ _ (by omega), BitVec.getLsbD_of_ge b _ (by omega), Bool.and_false]

/-- A gathered byte has the nibbles' bits 0. -/
theorem getLsbD_gather (w : Slots) {i : Nat} (bit : i < 8) : (gather w).getLsbD i = w.getLsbD (4 * i) := by
  simp only [gather, BitVec.getLsbD_append, BitVec.getLsbD_ofBool]
  interval_cases i <;> simp

/-! ## Encoding -/

/-- A byte spread at the clock positions has its bits at the nibbles' bits 2 and nothing elsewhere. -/
theorem getLsbD_spread_shiftLeft_two (b : Byte) (j : Nat) :
    (spread b <<< 2).getLsbD j = (decide (j % 4 = 2) && b.getLsbD (j / 4)) := by
  rw [BitVec.getLsbD_shiftLeft, getLsbD_spread]
  by_cases at_clock : j % 4 = 2
  · have shifted : (j - 2) % 4 = 0 ∧ (j - 2) / 4 = j / 4 ∧ ¬ j < 2 := by omega
    by_cases in_word : j < 32
    · simp [at_clock, shifted, in_word]
    · simp [in_word, BitVec.getLsbD_of_ge b (j / 4) (by omega)]
  · have elsewhere : j < 2 ∨ (j - 2) % 4 ≠ 0 := by omega
    rcases elsewhere with first | other
    · simp [at_clock, first]
    · simp [at_clock, other]

/-- Every slot of an encoded pair: the clock at 2 and the data at 0 of each nibble (41_codec.md R154). -/
theorem getLsbD_fmEncode (c d : Byte) (j : Nat) :
    (fmEncode c d).getLsbD j
      = (decide (j % 4 = 2) && c.getLsbD (j / 4) || decide (j % 4 = 0) && d.getLsbD (j / 4)) := by
  rw [fmEncode, BitVec.getLsbD_or, getLsbD_spread_shiftLeft_two, getLsbD_spread]

/-! ## Decoding -/

/-- The clock byte is read from position 2 of each nibble (41_codec.md R155). -/
theorem getLsbD_fmClock (w : Slots) {i : Nat} (bit : i < 8) : (fmClock w).getLsbD i = w.getLsbD (4 * i + 2) := by
  rw [fmClock, getLsbD_gather _ bit, BitVec.getLsbD_ushiftRight, Nat.add_comm]

/-- The data byte is read from position 0 of each nibble (41_codec.md R155). -/
theorem getLsbD_fmData (w : Slots) {i : Nat} (bit : i < 8) : (fmData w).getLsbD i = w.getLsbD (4 * i) :=
  getLsbD_gather w bit

/-- The mask of the iffy flag is that of the odd slots. -/
theorem getLsbD_iffyMask : ∀ j < 32, (0xAAAAAAAA : Slots).getLsbD j = decide (j % 2 = 1) := by decide

/-- The iffy flag is that of a pulse at an odd slot (41_codec.md R155). -/
theorem fmIffy_iff (w : Slots) : fmIffy w = true ↔ ∃ j, j < 16 ∧ w.getLsbD (2 * j + 1) = true := by
  rw [fmIffy, bne_iff_ne]
  constructor
  · contrapose!
    intro none_odd
    refine BitVec.eq_of_getLsbD_eq fun j in_word => ?_
    rw [BitVec.getLsbD_and, getLsbD_iffyMask j in_word]
    obtain ⟨i, rfl | rfl⟩ := j.even_or_odd'
    · simp
    · simp [none_odd i (by omega)]
  · rintro ⟨j, slot, pulse⟩ none_left
    have kept : (w &&& 0xAAAAAAAA).getLsbD (2 * j + 1) = true := by
      rw [BitVec.getLsbD_and, pulse, getLsbD_iffyMask _ (by omega)]
      simp
    rw [none_left] at kept
    simp at kept

/-! ## The round trip -/

theorem fmClock_fmEncode (c d : Byte) : fmClock (fmEncode c d) = c := by
  refine BitVec.eq_of_getLsbD_eq fun i bit => ?_
  rw [getLsbD_fmClock _ bit, getLsbD_fmEncode]
  simp [Nat.add_mod, show (4 * i + 2) / 4 = i by omega]

theorem fmData_fmEncode (c d : Byte) : fmData (fmEncode c d) = d := by
  refine BitVec.eq_of_getLsbD_eq fun i bit => ?_
  rw [getLsbD_fmData _ bit, getLsbD_fmEncode]
  simp

/-- An encoded pair has no pulse at an odd slot. -/
theorem fmIffy_fmEncode (c d : Byte) : fmIffy (fmEncode c d) = false := by
  rw [← Bool.not_eq_true, fmIffy_iff]
  rintro ⟨j, _, pulse⟩
  rw [getLsbD_fmEncode] at pulse
  simp [show (2 * j + 1) % 4 ≠ 2 by omega, show (2 * j + 1) % 4 ≠ 0 by omega] at pulse

/-- Settles O35: each slot is `getLsbD_fmEncode`'s, and decoding reads the slots back. -/
theorem fmCodecRoundTrips : Obligations.FmCodecRoundTrips := by
  refine ⟨fun c d i _ => ?slots, fun w i bit => ⟨getLsbD_fmClock w bit, getLsbD_fmData w bit⟩, fmIffy_iff,
    fun c d => ?roundTrip⟩
  case slots =>
    have nibble (k : Nat) (place : k < 4) : (4 * i + k) / 4 = i ∧ (4 * i + k) % 4 = k := by omega
    simp [getLsbD_fmEncode, nibble]
  case roundTrip =>
    rw [fmDecode, fmClock_fmEncode, fmData_fmEncode, fmIffy_fmEncode]

end Sys2Proof.Machine
end

section
/-! PROOFS. The accesses that lower the interrupt line: the result register's read (42_host_registers.md R173) and the
data accesses (R174, R179). -/

namespace Sys2Proof.Machine

/-! ## `RD_RESULT` -/

/-- `RD_RESULT` answers the result register, which keeps its value: only its full flag falls
(42_host_registers.md R173). -/
theorem exec_rdResult (s : State) :
    exec .rdResult s = .next { s with readData := s.result, resultFull := false, irq := false, intLine := false } :=
  rfl

/-- Settles O9: the next state is `exec_rdResult`'s. -/
theorem resultReadEmptiesTheResult : Obligations.ResultReadEmptiesTheResult := exec_rdResult

/-! ## `RD_DATA` and `WR_DATA` -/

/-- `RD_DATA` answers the data register whether or not there is a request, and lowers the request and the line
(42_host_registers.md R174). No offset is told apart from another. -/
theorem exec_rdData (off : BitVec 3) (s : State) :
    exec (.rdData off) s = .next { s with readData := s.data, drq := false, irq := false, intLine := false } := rfl

/-- `WR_DATA` stores the byte, and lowers the request and the line (42_host_registers.md R179). No offset is told apart
from another. -/
theorem exec_wrData (off : BitVec 3) (v : Byte) (s : State) :
    exec (.wrData off v) s = .next { s with data := v, drq := false, irq := false, intLine := false } := rfl

/-- Settles O10: the two accesses act alike at every offset, those of the data register included. -/
theorem dataAccessesServeTheRequest : Obligations.DataAccessesServeTheRequest := by
  intro off s _
  exact ⟨exec_rdData off s, fun v => exec_wrData off v s⟩

end Sys2Proof.Machine
end

section
/-! PROOFS. The bad-track adjustment of a seek's target in numbers (44_seek.md R242). -/

namespace Sys2Proof.Machine

/-- One bad-track entry as a number: the tracks are compared unsigned, and track 255 moves on to 0. -/
theorem toNat_skipBad (bad t : Byte) :
    (skipBad bad t).toNat = if bad.toNat ≤ t.toNat then (t.toNat + 1) % 256 else t.toNat := by
  unfold skipBad
  split
  case isTrue at_or_below => rw [if_pos (BitVec.le_def.mp at_or_below), BitVec.toNat_add]; rfl
  case isFalse above => rw [if_neg (mt BitVec.le_def.mpr above)]

/-- Settles O29: `toNat_skipBad` for bad track 2, then for bad track 1 inside it. -/
theorem badTracksMoveTheTarget : Obligations.BadTracksMoveTheTarget := by
  intro r n t
  rw [adjust, toNat_skipBad (r.bad2 n), toNat_skipBad (r.bad1 n)]

end Sys2Proof.Machine
end

section
/-! PROOFS. The end of a drive command (60_exceptions.md R411 to R414): what `complete` leaves. -/

namespace Sys2Proof.Machine

/-! ## The head's unloading -/

/-- The head-unload count is the upper half of its register (30_encoding.md R97). -/
theorem headUnload_eq (r : Regs) : r.headUnload = r.headLoadUnload.toNat / 16 := by
  have in_nibble : r.headLoadUnload.toNat / 16 < 16 := by omega
  rw [Regs.headUnload, BitVec.extractLsb'_toNat, Nat.shiftRight_eq_div_pow]
  exact Nat.mod_eq_of_lt in_nibble

theorem startUnload_never {s : State} (never : s.regs.headLoadUnload.toNat / 16 = 15) :
    startUnload s = { s with unload := none } := by
  rw [← headUnload_eq] at never
  exact if_pos never

theorem startUnload_atOnce {s : State} (at_once : s.regs.headLoadUnload.toNat / 16 = 0) :
    startUnload s = clearLines loadHeadLine s := by
  have not_never : s.regs.headLoadUnload.toNat / 16 ≠ 15 := by omega
  rw [← headUnload_eq] at at_once not_never
  exact (if_neg not_never).trans (if_pos at_once)

theorem startUnload_later {s : State} (not_never : s.regs.headLoadUnload.toNat / 16 ≠ 15)
    (not_at_once : s.regs.headLoadUnload.toNat / 16 ≠ 0) :
    startUnload s = { s with unload := some (s.regs.headLoadUnload.toNat / 16) } := by
  rw [← headUnload_eq] at not_never not_at_once ⊢
  exact (if_neg not_never).trans (if_neg not_at_once)

/-- Latching a result is what `Latched` says, with the unloading that the count asks for (60_exceptions.md R413,
R414). -/
theorem latch_latched (code : Byte) (s : State) : Latched code s (latch code s) := by
  refine ⟨_, rfl, fun never => startUnload_never never, fun at_once => ?_,
    fun not_never not_at_once => startUnload_later not_never not_at_once⟩
  have cleared : latch code s = clearLines loadHeadLine _ := startUnload_atOnce at_once
  rw [cleared]
  exact setDriveOut_written _ _

/-! ## The write gate -/

/-- A head's unloading does not touch the write gate. -/
theorem startUnload_writeGate (s : State) : (startUnload s).writeGate = s.writeGate := by
  unfold startUnload
  split
  · rfl
  · split
    · rw [clearLines, setDriveOut_writeGate]
      exact getLsbD_clear s.driveOut loadHeadLine 0 (by decide) (by decide)
    · rfl

theorem latch_writeGate (code : Byte) (s : State) : (latch code s).writeGate = s.writeGate :=
  startUnload_writeGate _

theorem clearLines_writeGateLine_writeGate (s : State) : (clearLines writeGateLine s).writeGate = false := by
  rw [clearLines, setDriveOut_writeGate, BitVec.getLsbD_and]
  exact Bool.and_false _

/-- The gate is off whether the result is latched now or later (60_exceptions.md R411). -/
theorem complete_writeGate (code : Byte) (s : State) : (complete code s).writeGate = false := by
  obtain now | later := Nat.eq_zero_or_pos s.cfg.completionDelay
  · rw [complete_now _ _ now, latch_writeGate, disarm_writeGate, clearLines_writeGateLine_writeGate]
  · rw [complete_later _ _ later, waitToLatch_writeGate, disarm_writeGate, clearLines_writeGateLine_writeGate]

/-! ## The end of the command -/

/-- The code that is latched: the deleted-data flag is added as a bit (60_exceptions.md R411). -/
theorem completionCode_eq (code : Byte) (s : State) : completionCode code s = code ||| flagOf s := by
  unfold completionCode flagOf
  simp only [Bool.and_eq_true]
  split
  · rfl
  · exact BitVec.or_zero.symm

/-- Every end of a drive command is one that `EndsWith` describes (60_exceptions.md R411 to R413). -/
theorem complete_endsWith (code : Byte) (s : State) : EndsWith (code ||| flagOf s) s (complete code s) := by
  have port : PortWritten (s.driveOut &&& 0xFE) s (clearLines writeGateLine s) := setDriveOut_written _ s
  rw [← completionCode_eq]
  refine ⟨complete_writeGate _ _, complete_regs _ _, complete_data _ _, complete_cmd _ _, complete_op _ _,
    complete_epoch _ _, complete_sameTracks _ _, complete_sameDiscs _ _, ?outcome, _, port, ?whole⟩ <;>
    split
  case outcome.isTrue now => rw [complete_now _ _ now]; simp
  case outcome.isFalse delayed => rw [complete_later _ _ (Nat.pos_of_ne_zero delayed)]; simp [State.armed]
  case whole.isTrue now => rw [complete_now _ _ now]; exact latch_latched _ _
  case whole.isFalse delayed =>
    rw [complete_later _ _ (Nat.pos_of_ne_zero delayed)]
    simp [State.waitToLatch, State.disarm, State.armed]

end Sys2Proof.Machine
end

section
/-! PROOFS. The searches for marks, slot by slot (45_bitstream.md R273, R275, R279, R282). -/

namespace Sys2Proof.Machine

/-! ## The slot and the state it reaches -/

theorem shiftIn_eq (w : Slots) (b : Bool) : shiftIn w b = (w <<< 1 ||| (if b then 1 else 0)) := by
  cases b <;> rfl

theorem onSlot_searchId {s : State} (searching : s.fsm = .searchId) (b : Bool) :
    onSlot s b = searchIdSlot { s with sr := shiftIn s.sr b } := by
  simp [onSlot, searching]

theorem onSlot_searchData {s : State} (searching : s.fsm = .searchData) (b : Bool) :
    onSlot s b = searchDataSlot { s with sr := shiftIn s.sr b } := by
  simp [onSlot, searching]

theorem onSlot_writeSkipGap2 {s : State} (skipping : s.fsm = .writeSkipGap2) (b : Bool) :
    onSlot s b = skipSlot { s with sr := shiftIn s.sr b } := by
  simp [onSlot, skipping]

/-- The states that read nothing and write nothing. -/
theorem reads_of_onlyShifts :
    ∀ f ∈ ([.idle, .params, .seekStep, .seekSettle, .formatWaitIndex, .completing] : List Fsm), f.reads = false := by
  decide

/-! ## The CRC of a mark -/

theorem crcByte_idMark : crcByte crcInit idMark = 0xEF21 := by decide

theorem crcByte_dataMarks (deleted : Bool) :
    crcByte crcInit (if deleted then deletedMark else dataMark) = if deleted then 0x8FE7 else 0xBF84 := by
  revert deleted
  decide

/-! ## The ID search -/

/-- The ID search leaves at the ID mark and nowhere else (45_bitstream.md R275). -/
theorem searchIdSlot_eq (s : State) :
    searchIdSlot s =
      if s.sr = 0x55111554 then
        { s with fsm := .inId, nbits := 0, cap := { s.cap with crc := 0xEF21, clkErr := false, idb := [] } }
      else s := by
  rw [searchIdSlot, crcByte_idMark]
  rfl

/-- Going back to the ID search passes over what was being read, which may end the command (45_bitstream.md R282). -/
theorem research_passedOver (s : State) : PassedOver s (research s) := by
  refine ⟨fun below => if_neg (Nat.not_le.mpr below), fun reached => ?_⟩
  have ended : research s = complete 0x18 { s with fsm := .searchId, sr := 0 } := if_pos reached
  rw [ended]
  exact complete_endsWith 0x18 _

/-! ## The data search -/

/-- A data field begins after the CRC of its mark alone (45_bitstream.md R279). -/
theorem startData_eq (deleted : Bool) (s : State) :
    startData deleted s
      = { s with
          fsm := .inData, nbits := 0
          cap := { s.cap with
            crc := if deleted then 0x8FE7 else 0xBF84
            clkErr := false, nbytes := 0, crcb := [], deleted := deleted } } := by
  rw [startData, crcByte_dataMarks]

theorem searchDataSlot_of_dataMark {s : State} (mark : s.sr = 0x55111455) :
    searchDataSlot s = startData false { s with nbits := s.nbits + 1 } := if_pos mark

theorem searchDataSlot_of_deletedMark {s : State} (mark : s.sr = 0x55111444) :
    searchDataSlot s = startData true { s with nbits := s.nbits + 1 } := by
  have not_data : s.sr ≠ 0x55111455 := by rw [mark]; decide
  exact (if_neg not_data).trans (if_pos mark)

/-- With no mark in the last slots the data search goes on until its window has passed (45_bitstream.md R279). -/
theorem searchDataSlot_of_noMark {s : State} (no_data : s.sr ≠ 0x55111455) (no_deleted : s.sr ≠ 0x55111444) :
    searchDataSlot s
      = if s.cfg.dataMarkWindow ≤ s.nbits + 1 then research { s with nbits := s.nbits + 1 }
        else { s with nbits := s.nbits + 1 } :=
  (if_neg no_data).trans (if_neg no_deleted)

/-! ## The skip of gap 2 -/

/-- The skip of gap 2 is done at the last slot of its bytes, and stays done (47_write_commands.md R343). -/
theorem skipSlot_eq (s : State) :
    skipSlot s
      = { s with
          nbits := s.nbits + 1
          wr := { s.wr with
            skipDone := s.wr.skipDone || decide (s.nbits + 1 = s.cfg.gap2SkipBytes * 32) } } := by
  unfold skipSlot
  dsimp only
  split
  case isTrue last => simp [last]
  case isFalse inside => simp [inside]

/-! ## The statement -/

/-- Settles O36: a case for each kind of state, and in the data search one for each mark and for none. -/
theorem searchesFindTheirMarks : Obligations.SearchesFindTheirMarks := by
  intro s b w shifted
  obtain rfl : w = shiftIn s.sr b := shifted.trans (shiftIn_eq s.sr b).symm
  refine ⟨fun searching => ?searchId, ?searchData, fun skipping => ?skip, fun only_shifts => ?shift⟩
  case searchId => rw [onSlot_searchId searching, searchIdSlot_eq]
  case searchData =>
    rintro searching u rfl
    rw [onSlot_searchData searching]
    refine ⟨fun mark => ?data, fun mark => ?deleted, fun no_data no_deleted => ?noMark⟩
    case data => rw [searchDataSlot_of_dataMark mark]; exact startData_eq false _
    case deleted => rw [searchDataSlot_of_deletedMark mark]; exact startData_eq true _
    case noMark =>
      rw [searchDataSlot_of_noMark no_data no_deleted]
      refine ⟨fun inside => if_neg (Nat.not_le.mpr inside), fun passed => ?_⟩
      rw [if_pos passed]
      exact research_passedOver _
  case skip => rw [onSlot_writeSkipGap2 skipping, skipSlot_eq]
  case shift => exact onSlot_idle s b (reads_of_onlyShifts s.fsm only_shifts)

end Sys2Proof.Machine
end

section
/-! PROOFS. The internal registers by their address (10_state.md R24) and the addresses the management commands reach
(48_management_commands.md R381, R383, R387). -/

namespace Sys2Proof.Machine

/-! ## The internal registers -/

/-- An address that holds a register holds what was last set there. -/
theorem Regs.get_set_same {r : Regs} {a w : Byte} (held : r.get a = some w) (v : Byte) :
    (r.set a v).get a = some v := by
  unfold Regs.set
  split
  case h_11 =>
    unfold Regs.get at held
    split at held <;> contradiction
  all_goals
    next address => simp only [Regs.get, address]

/-- Setting a register leaves every other one: where the two addresses name one register they are equal, and elsewhere
the field read is not the one set. -/
theorem Regs.get_set_other (r : Regs) {a b : Byte} (other : b ≠ a) (v : Byte) : (r.set a v).get b = r.get b := by
  have differ : b.toNat ≠ a.toNat := fun same => other (BitVec.eq_of_toNat_eq same)
  unfold Regs.set
  split
  case h_11 => rfl
  all_goals
    next address =>
      rw [address] at differ
      unfold Regs.get
      split <;> first | rfl | contradiction

/-! ## The addresses accepted -/

theorem specifyGroup_iff (a : Byte) : specifyGroup a = true ↔ a = 0x0D ∨ a = 0x10 ∨ a = 0x18 := by
  simp [specifyGroup, or_assoc]

theorem specialRegister_iff (a : Byte) :
    specialRegister a = true ↔ a ∈ ([0x10, 0x11, 0x12, 0x17, 0x18, 0x19, 0x1A] : List Byte) := by
  simp [specialRegister, or_assoc]

/-- Every address `WRITE_SPECIAL` and `READ_SPECIAL` take for a register holds one. -/
theorem Regs.get_of_specialRegister (r : Regs) {a : Byte} (special : specialRegister a = true) :
    ∃ v, r.get a = some v := by
  rw [specialRegister_iff] at special
  simp only [List.mem_cons, List.not_mem_nil, or_false] at special
  rcases special with rfl | rfl | rfl | rfl | rfl | rfl | rfl <;> exact ⟨_, rfl⟩

/-- The output port is not among the internal registers. -/
theorem ne_outputPort_of_specialRegister {a : Byte} (special : specialRegister a = true) : a ≠ outputPort := by
  rintro rfl
  exact absurd special (by decide)

/-- The input port is not among the internal registers. -/
theorem ne_inputPort_of_specialRegister {a : Byte} (special : specialRegister a = true) : a ≠ inputPort := by
  rintro rfl
  exact absurd special (by decide)

/-- What `READ_SPECIAL` finds at an internal register's address. -/
theorem specialValue_of_specialRegister (s : State) {a : Byte} (special : specialRegister a = true) :
    specialValue s a = s.regs.get a := by
  rw [specialValue, if_neg (ne_inputPort_of_specialRegister special), if_neg (ne_outputPort_of_specialRegister special),
    if_pos special]

/-- Past the two ports and the internal registers, `READ_SPECIAL` finds nothing. -/
theorem specialValue_of_refused (s : State) {a : Byte} (not_input : a ≠ inputPort) (not_output : a ≠ outputPort)
    (not_register : ¬ specialRegister a = true) : specialValue s a = none := by
  rw [specialValue, if_neg not_input, if_neg not_output, if_neg not_register]

end Sys2Proof.Machine
end

section
/-! PROOFS. A management command from its frame to its dispatch: what it has put into the registers of its sequencing
and the application of its select bits do not touch each other (43_command_protocol.md R200, R204, R206). -/

namespace Sys2Proof.Machine

/-! ## The port under a command -/

/-- A write of the port while a command is dispatched is the write `PortWritten` lists, the command's registers being
set before it or after it. -/
theorem setDriveOut_atDispatch (v c : Byte) (op : Op) (ps : List Byte) (s : State) :
    ∃ t, PortWritten v s t ∧ setDriveOut v (atDispatch c op ps s) = atDispatch c op ps t := by
  obtain ⟨_, _, _, _, _, only_port⟩ := setDriveOut_frame v (atDispatch c op ps s)
  refine ⟨_, (setDriveOut_written v (atDispatch c op ps s)).frame
    s.cmd s.busy s.params s.nexp s.fsm s.op s.deletedSeen s.seek, ?_⟩
  rw [only_port]
  rfl

/-- Dispatch applies the command's select bits to the state before the command, as `Selected` says. -/
theorem selectFromCommand_atDispatch (c : Byte) (op : Op) (ps : List Byte) (s : State) :
    ∃ u, Selected (selOf c) s u ∧ selectFromCommand (atDispatch c op ps s) = atDispatch c op ps u := by
  by_cases same : selOf c = selOf s.driveOut
  · refine ⟨s, ?_, if_pos same⟩
    rw [Selected, if_pos same]
  · obtain ⟨u, written, after⟩ := setDriveOut_atDispatch (selectedPort (selOf c) s.driveOut) c op ps s
    refine ⟨u, ?_, ?_⟩
    · rw [Selected, if_neg same]
      exact written
    · rw [← after, ← selectedPort_eq _ _ same]
      exact if_neg same

/-- Selection leaves the internal registers. -/
theorem Selected.regs_eq {sel : BitVec 2} {s u : State} (selected : Selected sel s u) : u.regs = s.regs := by
  unfold Selected at selected
  split at selected
  · rw [selected]
  · rw [selected.rest]

/-! ## A whole command -/

/-- An idle controller runs a whole command from the state its select bits leave. -/
theorem issue_of_idle (op : Op) (sel : BitVec 2) (ps : List Byte) (run : State → Result) {s : State}
    (idle : s.busy = false) :
    ∃ u, Selected sel s u ∧ issue op sel ps run s = run (atDispatch (commandByte sel op) op ps u) := by
  obtain ⟨u, selected, after⟩ := selectFromCommand_atDispatch (commandByte sel op) op ps s
  rw [selOf_commandByte] at selected
  refine ⟨u, selected, ?_⟩
  rw [← after, issue, idle]
  rfl

/-- An idle controller refuses a whole command that is refused at every dispatch. -/
theorem issue_refused (op : Op) (sel : BitVec 2) (ps : List Byte) {run : State → Result} {s : State} {r : Refusal}
    (idle : s.busy = false) (refused : ∀ u, run (atDispatch (commandByte sel op) op ps u) = .refused r) :
    issue op sel ps run s = .refused r := by
  obtain ⟨u, -, run_at⟩ := issue_of_idle op sel ps run idle
  exact run_at.trans (refused u)

end Sys2Proof.Machine
end

section
/-! PROOFS. The management commands (48_management_commands.md R380 to R387): each runs to its end in its dispatch. -/

namespace Sys2Proof.Machine

/-! ## `READ_STATUS` -/

theorem exec_readStatus (sel : BitVec 2) (s : State) :
    exec (.readStatus sel) s = issue .readStatus sel [] runReadStatus s := rfl

/-- Settles O16: the command's own registers do not show at the input port, so what it answers is the port of the state
after the selection. -/
theorem readStatusGivesTheInputPort : Obligations.ReadStatusGivesTheInputPort := by
  intro sel s idle
  obtain ⟨u, selected, run⟩ := issue_of_idle .readStatus sel [] runReadStatus idle
  exact ⟨u, _, selected, (exec_readStatus sel s).trans run, rfl, rfl⟩

/-! ## `SPECIFY` -/

theorem exec_specify (sel : BitVec 2) (g v1 v2 v3 : Byte) (s : State) :
    exec (.specify sel g v1 v2 v3) s = issue .specify sel [g, v1, v2, v3] runSpecify s := rfl

/-- `SPECIFY` sets three registers in a row from an accepted group on. -/
theorem runSpecify_of_group {s : State} (group : specifyGroup (s.param 0) = true) :
    runSpecify s = .next (finishMgmt none
      { s with regs :=
          ((s.regs.set (s.param 0) (s.param 1)).set (s.param 0 + 1) (s.param 2)).set (s.param 0 + 2) (s.param 3) }) :=
  if_pos group

theorem runSpecify_of_noGroup {s : State} (no_group : ¬ specifyGroup (s.param 0) = true) :
    runSpecify s = .refused .specifyTarget := if_neg no_group

/-- Settles O18: the three registers in a row are the group's, and a byte that names no group is refused. -/
theorem specifyLoadsItsGroup : Obligations.SpecifyLoadsItsGroup := by
  intro sel g v1 v2 v3 s idle
  rw [exec_specify]
  refine ⟨fun regs loaded => ?group, fun not_0D not_10 not_18 => ?noGroup⟩
  case group =>
    have group : specifyGroup g = true := by
      rw [specifyGroup_iff]
      exact loaded.imp And.left (Or.imp And.left And.left)
    have regs_eq : ((s.regs.set g v1).set (g + 1) v2).set (g + 2) v3 = regs := by
      rcases loaded with ⟨rfl, rfl⟩ | ⟨rfl, rfl⟩ | ⟨rfl, rfl⟩ <;> rfl
    obtain ⟨u, selected, run⟩ := issue_of_idle .specify sel [g, v1, v2, v3] runSpecify idle
    refine ⟨u, _, selected, run.trans (runSpecify_of_group group), ?_⟩
    rw [← regs_eq, ← selected.regs_eq]
    rfl
  case noGroup =>
    have no_group : ¬ specifyGroup g = true := by
      rw [specifyGroup_iff, not_or, not_or]
      exact ⟨not_0D, not_10, not_18⟩
    exact issue_refused _ _ _ idle fun _ => runSpecify_of_noGroup no_group

/-! ## `WRITE_SPECIAL` -/

theorem exec_writeSpecial (sel : BitVec 2) (a v : Byte) (s : State) :
    exec (.writeSpecial sel a v) s = issue .writeSpecial sel [a, v] runWriteSpecial s := rfl

theorem runWriteSpecial_of_outputPort {s : State} (port : s.param 0 = outputPort) :
    runWriteSpecial s = .next (finishMgmt none (setDriveOut (s.param 1) s)) := if_pos port

theorem runWriteSpecial_of_specialRegister {s : State} (special : specialRegister (s.param 0) = true) :
    runWriteSpecial s = .next (finishMgmt none { s with regs := s.regs.set (s.param 0) (s.param 1) }) :=
  (if_neg (ne_outputPort_of_specialRegister special)).trans (if_pos special)

theorem runWriteSpecial_of_refused {s : State} (not_port : s.param 0 ≠ outputPort)
    (not_register : ¬ specialRegister (s.param 0) = true) : runWriteSpecial s = .refused .specialRegister :=
  (if_neg not_port).trans (if_neg not_register)

/-- Settles O19: the register by `Regs.get_set_same` and `Regs.get_set_other`, the port by a second write of it after
the selection's. -/
theorem writeSpecialWritesOneRegister : Obligations.WriteSpecialWritesOneRegister := by
  intro sel a v s idle
  rw [exec_writeSpecial]
  refine ⟨fun accepted => ?register, fun port => ?port, fun not_accepted => ?refused⟩
  case register =>
    have special := (specialRegister_iff a).mpr accepted
    obtain ⟨u, selected, run⟩ := issue_of_idle .writeSpecial sel [a, v] runWriteSpecial idle
    obtain ⟨_, held⟩ := u.regs.get_of_specialRegister special
    refine ⟨u, _, selected, run.trans (runWriteSpecial_of_specialRegister special), Regs.get_set_same held v,
      fun b other => ?_, rfl⟩
    rw [← selected.regs_eq]
    exact u.regs.get_set_other other v
  case port =>
    obtain ⟨u, selected, run⟩ := issue_of_idle .writeSpecial sel [a, v] runWriteSpecial idle
    obtain ⟨w, written, after⟩ := setDriveOut_atDispatch v (commandByte sel .writeSpecial) .writeSpecial [a, v] u
    refine ⟨u, w, _, selected, written, run.trans (runWriteSpecial_of_outputPort port), ?_⟩
    exact congrArg (finishMgmt none) after
  case refused =>
    have not_port : a ≠ outputPort := (ne_of_mem_of_not_mem (by decide) not_accepted).symm
    have not_register : ¬ specialRegister a = true := by
      rw [specialRegister_iff]
      exact mt (List.mem_append_left [0x23]) not_accepted
    exact issue_refused _ _ _ idle fun _ => runWriteSpecial_of_refused not_port not_register

/-! ## `READ_SPECIAL` -/

theorem exec_readSpecial (sel : BitVec 2) (a : Byte) (s : State) :
    exec (.readSpecial sel a) s = issue .readSpecial sel [a] runReadSpecial s := rfl

theorem runReadSpecial_of_some {s : State} {v : Byte} (value : specialValue s (s.param 0) = some v) :
    runReadSpecial s = .next (finishMgmt (some v) s) := by
  rw [runReadSpecial, value]

theorem runReadSpecial_of_none {s : State} (no_value : specialValue s (s.param 0) = none) :
    runReadSpecial s = .refused .specialRegister := by
  rw [runReadSpecial, no_value]

/-- The value at an accepted address, a port's or a register's (48_management_commands.md R387). -/
theorem specialValue_of_accepted (s : State) {a : Byte}
    (accepted : a ∈ ([0x10, 0x11, 0x12, 0x17, 0x18, 0x19, 0x1A, 0x22, 0x23] : List Byte)) :
    ∃ v, specialValue s a = some v
      ∧ some v = if a = 0x22 then some s.driveIn else if a = 0x23 then some s.driveOut else s.regs.get a := by
  have register_or_port :
      a ∈ ([0x10, 0x11, 0x12, 0x17, 0x18, 0x19, 0x1A] : List Byte) ∨ a ∈ [inputPort, outputPort] :=
    List.mem_append.mp accepted
  rw [← specialRegister_iff, List.mem_pair] at register_or_port
  rcases register_or_port with special | rfl | rfl
  · obtain ⟨v, held⟩ := s.regs.get_of_specialRegister special
    refine ⟨v, (specialValue_of_specialRegister s special).trans held, ?_⟩
    exact held.symm.trans ((if_neg (ne_inputPort_of_specialRegister special)).trans
      (if_neg (ne_outputPort_of_specialRegister special))).symm
  · exact ⟨s.driveIn, rfl, rfl⟩
  · exact ⟨s.driveOut, rfl, rfl⟩

/-- Settles O20: `specialValue_of_accepted` in the state after the selection; nothing is found at any other address. -/
theorem readSpecialReadsOneRegister : Obligations.ReadSpecialReadsOneRegister := by
  intro sel a s idle
  rw [exec_readSpecial]
  refine ⟨fun accepted => ?accepted, fun not_accepted => ?refused⟩
  case accepted =>
    obtain ⟨u, selected, run⟩ := issue_of_idle .readSpecial sel [a] runReadSpecial idle
    obtain ⟨v, value, v_eq⟩ := specialValue_of_accepted u accepted
    refine ⟨u, _, selected, run.trans (runReadSpecial_of_some value), ?_, rfl⟩
    rw [← selected.regs_eq]
    exact v_eq
  case refused =>
    have not_input : a ≠ inputPort := (ne_of_mem_of_not_mem (by decide) not_accepted).symm
    have not_output : a ≠ outputPort := (ne_of_mem_of_not_mem (by decide) not_accepted).symm
    have not_register : ¬ specialRegister a = true := by
      rw [specialRegister_iff]
      exact mt (List.mem_append_left [0x22, 0x23]) not_accepted
    exact issue_refused _ _ _ idle fun _ =>
      runReadSpecial_of_none (specialValue_of_refused _ not_input not_output not_register)

end Sys2Proof.Machine
end

section
/-! PROOFS. Frames and instructions: decoding an encoded instruction, encoding a decoded frame, and how many
parameters a command byte asks for (30_encoding.md R81, R85, R98). -/

namespace Sys2Proof

/-! ## Taking parameters -/

theorem take1_eq_ok {mk : Byte → Instr} {ps r : List Byte} {i : Instr} :
    take1 mk ps = .ok (i, r) ↔ ∃ a, ps = a :: r ∧ i = mk a := by
  unfold take1; split <;> simp [eq_comm, and_comm]

theorem take2_eq_ok {mk : Byte → Byte → Instr} {ps r : List Byte} {i : Instr} :
    take2 mk ps = .ok (i, r) ↔ ∃ a b, ps = a :: b :: r ∧ i = mk a b := by
  unfold take2; split <;> simp [eq_comm, and_comm]

theorem take3_eq_ok {mk : Byte → Byte → Byte → Instr} {ps r : List Byte} {i : Instr} :
    take3 mk ps = .ok (i, r) ↔ ∃ a b c, ps = a :: b :: c :: r ∧ i = mk a b c := by
  unfold take3; split <;> simp [eq_comm, and_comm]

theorem take4_eq_ok {mk : Byte → Byte → Byte → Byte → Instr} {ps r : List Byte} {i : Instr} :
    take4 mk ps = .ok (i, r) ↔ ∃ a b c d, ps = a :: b :: c :: d :: r ∧ i = mk a b c d := by
  unfold take4; split <;> simp [eq_comm, and_comm]

theorem take5_eq_ok {mk : Byte → Byte → Byte → Byte → Byte → Instr} {ps r : List Byte} {i : Instr} :
    take5 mk ps = .ok (i, r) ↔ ∃ a b c d e, ps = a :: b :: c :: d :: e :: r ∧ i = mk a b c d e := by
  unfold take5; split <;> simp [eq_comm, and_comm]

/-! ## Commands -/

/-- A command byte is read as its select bits and its code. -/
theorem decodeCommand_commandByte (sel : BitVec 2) (op : Op) (ps : List Byte) :
    decodeCommand (commandByte sel op :: ps) = decodeParams op sel ps := by
  simp [decodeCommand, ofCode_code]

/-- A command frame decodes once its parameters do, with no byte left over. -/
theorem decode_command {sel : BitVec 2} {op : Op} {ps : List Byte} {i : Instr}
    (taken : decodeParams op sel ps = .ok (i, [])) : decode (.command (commandByte sel op :: ps)) = .ok i := by
  rw [decode, decodeCommand_commandByte, taken]

/-- A command frame that decodes begins with a documented command byte, whose parameters are all the rest. -/
theorem decode_command_eq_ok {bytes : List Byte} {i : Instr} (decoded : decode (.command bytes) = .ok i) :
    ∃ sel op ps, bytes = commandByte sel op :: ps ∧ decodeParams op sel ps = .ok (i, []) := by
  unfold decode at decoded
  dsimp only at decoded
  split at decoded
  case h_1 => cases decoded
  case h_3 => cases decoded
  case h_2 j taken =>
    obtain rfl := Except.ok.inj decoded
    cases bytes with
    | nil => cases taken
    | cons c ps =>
      unfold decodeCommand at taken
      dsimp only at taken
      split at taken
      case h_1 => cases taken
      case h_2 op named =>
        refine ⟨selOf c, op, ps, ?_, taken⟩
        rw [commandByte, code_of_ofCode named, append_selOf_codeOf]

/-- The bytes taken for a command are exactly those its encoding has. -/
theorem encode_of_decodeParams {op : Op} {sel : BitVec 2} {ps : List Byte} {i : Instr}
    (taken : decodeParams op sel ps = .ok (i, [])) : i.wf = true ∧ encode i = .command (commandByte sel op :: ps) := by
  cases op <;> simp only [decodeParams] at taken
  case readStatus =>
    obtain ⟨rfl, rfl⟩ := Prod.mk.inj (Except.ok.inj taken)
    exact ⟨rfl, rfl⟩
  case seek | readSpecial =>
    obtain ⟨a, rfl, rfl⟩ := take1_eq_ok.mp taken
    exact ⟨rfl, rfl⟩
  case write128 | writeDel128 | read128 | readDel128 | verify128 | writeSpecial =>
    obtain ⟨a, b, rfl, rfl⟩ := take2_eq_ok.mp taken
    exact ⟨rfl, rfl⟩
  case writeVar | writeDelVar | readVar | readDelVar | verifyVar | readId =>
    obtain ⟨a, b, c, rfl, rfl⟩ := take3_eq_ok.mp taken
    exact ⟨rfl, rfl⟩
  case specify =>
    obtain ⟨a, b, c, d, rfl, rfl⟩ := take4_eq_ok.mp taken
    exact ⟨rfl, rfl⟩
  case scan | scanDel | format =>
    obtain ⟨a, b, c, d, e, rfl, rfl⟩ := take5_eq_ok.mp taken
    exact ⟨rfl, rfl⟩

/-- As many bytes as a command takes are its parameters. -/
theorem decodeParams_of_length {op : Op} {ps : List Byte} (sel : BitVec 2) (enough : ps.length = op.params) :
    ∃ i, decodeParams op sel ps = .ok (i, []) := by
  cases op <;> simp only [Op.params] at enough
  case readStatus =>
    obtain rfl := List.length_eq_zero_iff.mp enough
    exact ⟨_, rfl⟩
  case seek | readSpecial =>
    obtain ⟨a, rfl⟩ := List.length_eq_one_iff.mp enough
    exact ⟨_, rfl⟩
  case write128 | writeDel128 | read128 | readDel128 | verify128 | writeSpecial =>
    obtain ⟨a, b, rfl⟩ := List.length_eq_two.mp enough
    exact ⟨_, rfl⟩
  case writeVar | writeDelVar | readVar | readDelVar | verifyVar | readId =>
    obtain ⟨a, b, c, rfl⟩ := List.length_eq_three.mp enough
    exact ⟨_, rfl⟩
  case specify =>
    match ps, enough with
    | [_, _, _, _], _ => exact ⟨_, rfl⟩
  case scan | scanDel | format =>
    match ps, enough with
    | [_, _, _, _, _], _ => exact ⟨_, rfl⟩

/-! ## Offsets -/

theorem decode_read_unmapped :
    ∀ off : BitVec 3, unmappedOffset off = true → decode (.read off.toNat) = .ok (.rdUnmapped off) := by decide

theorem decode_read_data :
    ∀ off : BitVec 3, dataOffset off = true → decode (.read off.toNat) = .ok (.rdData off) := by decide

theorem decode_write_data (v : Byte) :
    ∀ off : BitVec 3, dataOffset off = true → decode (.write off.toNat v) = .ok (.wrData off v) := by
  intro off data
  have offsets : off = 4 ∨ off = 5 ∨ off = 6 ∨ off = 7 := by revert off; decide
  rcases offsets with rfl | rfl | rfl | rfl <;> rfl

/-- A bus access that decodes is at one of the eight offsets, and gives it back. -/
theorem encode_of_decode_read {off : Nat} {i : Instr} (decoded : decode (.read off) = .ok i) :
    i.wf = true ∧ encode i = .read off := by
  unfold decode at decoded
  dsimp only at decoded
  split at decoded
  case h_9 => cases decoded
  all_goals
    obtain rfl := Except.ok.inj decoded
    exact ⟨rfl, rfl⟩

theorem encode_of_decode_write {off : Nat} {v : Byte} {i : Instr} (decoded : decode (.write off v) = .ok i) :
    i.wf = true ∧ encode i = .write off v := by
  unfold decode at decoded
  dsimp only at decoded
  split at decoded
  case h_9 => cases decoded
  all_goals
    obtain rfl := Except.ok.inj decoded
    exact ⟨rfl, rfl⟩

/-! ## The round trips -/

/-- Settles O1: a command by its parameters, which are all its frame holds after the command byte; a bus access by its
offset, which `wf` keeps within its row. -/
theorem decodeOfEncodeIsTheInstruction : Obligations.DecodeOfEncodeIsTheInstruction := by
  intro i well_formed
  cases i
  case rdUnmapped off => exact decode_read_unmapped off well_formed
  case rdData off => exact decode_read_data off well_formed
  case wrData off v => exact decode_write_data v off well_formed
  case rdStatus | rdResult | wrCommand | wrParam | wrReset | wrUnmapped => rfl
  all_goals exact decode_command rfl

/-- Settles O2: a command frame by `encode_of_decodeParams`, a bus access offset by offset. -/
theorem encodeOfDecodeIsTheFrame : Obligations.EncodeOfDecodeIsTheFrame := by
  intro f i decoded
  cases f with
  | command bytes =>
    obtain ⟨sel, op, ps, rfl, taken⟩ := decode_command_eq_ok decoded
    exact encode_of_decodeParams taken
  | read off => exact encode_of_decode_read decoded
  | write off v => exact encode_of_decode_write decoded

/-! ## The command map -/

/-- The nineteen commands in the order of the table (30_encoding.md R81). -/
def Op.table : List Op :=
  [.scan, .scanDel, .write128, .writeVar, .writeDel128, .writeDelVar, .read128, .readVar, .readDel128, .readDelVar,
    .readId, .verify128, .verifyVar, .format, .seek, .readStatus, .specify, .writeSpecial, .readSpecial]

/-- A command byte begins an instruction of exactly as many parameters as its command takes. -/
theorem decode_command_isOk_iff (sel : BitVec 2) (op : Op) (ps : List Byte) :
    (∃ i, decode (.command (commandByte sel op :: ps)) = .ok i) ↔ ps.length = op.params := by
  constructor
  · rintro ⟨i, decoded⟩
    obtain ⟨-, frame⟩ := encodeOfDecodeIsTheFrame _ i decoded
    exact Machine.params_length frame (by rw [codeOf_commandByte, ofCode_code])
  · intro enough
    obtain ⟨i, taken⟩ := decodeParams_of_length sel enough
    exact ⟨i, decode_command taken⟩

/-- Settles O4: the rows are the commands' codes and parameter counts. -/
theorem documentedCodesTakeTheirParameters : Obligations.DocumentedCodesTakeTheirParameters := by
  intro sel ps row listed
  obtain ⟨op, -, rfl⟩ : ∃ op ∈ Op.table, (op.code, op.params) = row := List.mem_map.mp listed
  exact decode_command_isOk_iff sel op ps

/-- Settles O3: each frame is decoded. -/
theorem handWrittenFramesDecode : Obligations.HandWrittenFramesDecode := by
  refine ⟨?_, ?_, ?_, ?_, ?_, ?_, ?_, ?_, ?_, ?_, ?_, ?_, ?_⟩ <;> rfl

end Sys2Proof
end

section
/-! PROOFS. Commands byte by byte and as a whole: acceptance, the collection of parameters and the dispatch
(43_command_protocol.md R200, R201, R204), and the step that presents an instruction. -/

namespace Sys2Proof.Machine

/-! ## The step -/

/-- Settles O6: the step takes the action off the queue and runs what its frame decodes to. -/
theorem stepRunsTheDecodedInstruction : Obligations.StepRunsTheDecodedInstruction := by
  intro s f rest i presented decoded
  rw [step, presented]
  dsimp only
  rw [accessFrame, decoded]

/-! ## Unmapped offsets -/

theorem exec_rdUnmapped (off : BitVec 3) (s : State) :
    exec (.rdUnmapped off) s = .next { s with readData := Config.drawByte s.draws, draws := s.draws + 1 } := rfl

theorem exec_wrUnmapped (v : Byte) (s : State) : exec (.wrUnmapped v) s = .next s := rfl

/-- Settles O11: the value read is the draw. -/
theorem unmappedAccessesChangeNothing : Obligations.UnmappedAccessesChangeNothing :=
  ⟨fun off s _ => ⟨_, exec_rdUnmapped off s⟩, exec_wrUnmapped⟩

/-! ## Command bytes -/

theorem exec_wrParam (v : Byte) (s : State) : exec (.wrParam v) s = acceptParameter v s := rfl

theorem acceptCommand_of_busy {s : State} (busy : s.busy = true) (v : Byte) :
    acceptCommand v s = .fault .commandWhileBusy := by
  simp [acceptCommand, busy]

theorem acceptCommand_undocumented {s : State} {v : Byte} (idle : s.busy = false)
    (undocumented : Op.ofCode (codeOf v) = none) : acceptCommand v s = .refused .undocumentedCommand := by
  simp [acceptCommand, idle, undocumented]

theorem acceptCommand_scan {s : State} {v : Byte} {op : Op} (idle : s.busy = false)
    (named : Op.ofCode (codeOf v) = some op) (scan : op = .scan ∨ op = .scanDel) :
    acceptCommand v s = .refused .scanUnmodelled := by
  simp [acceptCommand, idle, named, scan]

/-- A command that takes no parameter is dispatched when its byte is accepted. -/
theorem acceptCommand_dispatch {s : State} {v : Byte} {op : Op} (idle : s.busy = false)
    (named : Op.ofCode (codeOf v) = some op) (not_scan : ¬ (op = .scan ∨ op = .scanDel)) (no_params : op.params = 0) :
    acceptCommand v s = dispatch (commandAccepted v op s) := by
  simp [acceptCommand, idle, named, not_scan, no_params]

theorem acceptCommand_collect {s : State} {v : Byte} {op : Op} (idle : s.busy = false)
    (named : Op.ofCode (codeOf v) = some op) (not_scan : ¬ (op = .scan ∨ op = .scanDel)) (params : op.params ≠ 0) :
    acceptCommand v s = .next (commandAccepted v op s) := by
  simp [acceptCommand, idle, named, not_scan, params]

theorem ofCode_commandByte (sel : BitVec 2) (op : Op) : Op.ofCode (codeOf (commandByte sel op)) = some op := by
  rw [codeOf_commandByte, ofCode_code]

/-- A code that is none of the table's names no command. -/
theorem ofCode_eq_none {c : BitVec 6}
    (unlisted : c.toNat ∉ ([0x00, 0x04, 0x0A, 0x0B, 0x0E, 0x0F, 0x12, 0x13, 0x16, 0x17, 0x1B, 0x1E, 0x1F, 0x23, 0x29,
      0x2C, 0x35, 0x3A, 0x3D] : List Nat)) : Op.ofCode c = none := by
  cases named : Op.ofCode c with
  | none => rfl
  | some op =>
    rw [← code_of_ofCode named] at unlisted
    cases op <;> exact absurd (by decide) unlisted

/-- Settles O5: the byte is refused when it is accepted, unless the controller is busy. -/
theorem unmodelledCommandBytesAreRefused : Obligations.UnmodelledCommandBytesAreRefused := by
  refine ⟨fun c s idle unlisted => ?undocumented, fun sel s idle => ?scanBytes,
    fun sel p0 p1 p2 p3 p4 s idle => ?scans, fun sel c p0 p1 p2 p3 p4 s busy => ?busy⟩
  case undocumented => exact acceptCommand_undocumented idle (ofCode_eq_none unlisted)
  case scanBytes =>
    exact ⟨acceptCommand_scan idle (ofCode_commandByte sel .scan) (.inl rfl),
      acceptCommand_scan idle (ofCode_commandByte sel .scanDel) (.inr rfl)⟩
  case scans =>
    have refused : refuseScan s = .refused .scanUnmodelled := by simp [refuseScan, idle]
    exact ⟨refused, refused⟩
  case busy =>
    have faults : refuseScan s = .fault .commandWhileBusy := by simp [refuseScan, busy]
    exact ⟨acceptCommand_of_busy busy c, faults, faults⟩

/-! ## The dispatch -/

/-- What a command's dispatch runs once its select bits are applied (43_command_protocol.md R204). -/
def runOf : Op → State → Result
  | .readStatus => runReadStatus
  | .specify => runSpecify
  | .writeSpecial => runWriteSpecial
  | .readSpecial => runReadSpecial
  | .scan | .scanDel => fun _ => .refused .scanUnmodelled
  | op => startDriveCommand op

/-- The dispatch applies the select bits and runs the command in the command register. -/
theorem dispatch_eq {s : State} {op : Op} (command : s.command = some op) :
    dispatch s = runOf op (selectFromCommand s) := by
  obtain ⟨_, _, _, _, _, _, selection⟩ := selectFromCommand_frame s
  have kept : (selectFromCommand s).command = some op := by rw [selection]; exact command
  unfold dispatch
  dsimp only
  rw [kept]
  cases op <;> rfl

/-- A whole command of an idle controller: its byte accepted, its parameters there, its dispatch. -/
theorem exec_of_idle {i : Instr} {c : Byte} {ps : List Byte} {op : Op} {s : State}
    (frame : encode i = .command (c :: ps)) (named : Op.ofCode (codeOf c) = some op) (idle : s.busy = false) :
    exec i s = runOf op (selectFromCommand (atDispatch c op ps s)) := by
  cases i <;> simp only [encode, Frame.command.injEq, List.cons.injEq, reduceCtorEq] at frame <;>
    (obtain ⟨rfl, rfl⟩ := frame
     rw [ofCode_commandByte] at named
     obtain rfl := Option.some.inj named
     simp only [exec, execScan, execScanDel, refuseScan, idle]
     first
       | rfl
       | exact if_neg (by rw [idle]; decide))

theorem exec_of_busy {i : Instr} {c : Byte} {ps : List Byte} {s : State} (frame : encode i = .command (c :: ps))
    (busy : s.busy = true) : exec i s = .fault .commandWhileBusy := by
  cases i <;> simp only [encode, Frame.command.injEq, List.cons.injEq, reduceCtorEq] at frame <;>
    exact if_pos busy

/-- The first byte of a whole command is a documented one. -/
theorem named_of_encode {i : Instr} {c : Byte} {ps : List Byte} (frame : encode i = .command (c :: ps)) :
    ∃ op, Op.ofCode (codeOf c) = some op := by
  cases i <;> simp only [encode, Frame.command.injEq, List.cons.injEq, reduceCtorEq] at frame <;>
    (obtain ⟨rfl, -⟩ := frame
     exact ⟨_, ofCode_commandByte _ _⟩)

/-! ## Collecting the parameters -/

theorem acceptParameter_elsewhere {s : State} (elsewhere : s.fsm ≠ .params) (v : Byte) :
    acceptParameter v s = .fault .unexpectedParameter := if_neg elsewhere

theorem acceptParameter_more {s : State} {v : Byte} (collecting : s.fsm = .params)
    (more : s.params.length + 1 ≠ s.nexp) : acceptParameter v s = .next { s with params := s.params ++ [v] } := by
  simp [acceptParameter, collecting, more]

theorem acceptParameter_last {s : State} {v : Byte} (collecting : s.fsm = .params)
    (last : s.params.length + 1 = s.nexp) : acceptParameter v s = dispatch { s with params := s.params ++ [v] } := by
  simp [acceptParameter, collecting, last]

/-- The parameters written one by one, as far as no write stops. -/
def writeParams (ps : List Byte) (r : Result) : Result := ps.foldl (fun r v => andThen r (exec (.wrParam v))) r

theorem writeParams_fault (ps : List Byte) (e : Fault) : writeParams ps (.fault e) = .fault e := by
  induction ps with
  | nil => rfl
  | cons v ps ih => exact ih

theorem writeParams_refused (ps : List Byte) (e : Refusal) : writeParams ps (.refused e) = .refused e := by
  induction ps with
  | nil => rfl
  | cons v ps ih => exact ih

/-- Exactly the parameters that are missing, written one by one, dispatch the command with all of them. -/
theorem writeParams_dispatches {ps : List Byte} {s : State} (missed : ps ≠ []) (collecting : s.fsm = .params)
    (missing : s.params.length + ps.length = s.nexp) :
    writeParams ps (.next s) = dispatch { s with params := s.params ++ ps } := by
  induction ps generalizing s with
  | nil => exact absurd rfl missed
  | cons v ps ih =>
    have first : writeParams (v :: ps) (.next s) = writeParams ps (acceptParameter v s) := rfl
    rw [first]
    by_cases last : ps = []
    · subst last
      rw [acceptParameter_last collecting missing]
      rfl
    · have more : s.params.length + 1 ≠ s.nexp := by
        have := List.length_pos_of_ne_nil last
        simp only [List.length_cons] at missing
        omega
      rw [acceptParameter_more collecting more, ih last]
      · simp
      · exact collecting
      · simp only [List.length_cons] at missing
        simp only [List.length_append, List.length_singleton]
        omega

/-- Settles O7: the command byte leaves the machine that waits for the parameters, and the last of these dispatches it
as the whole command is; a busy controller and a scan command stop at the first byte. -/
theorem commandIsItsByteWrites : Obligations.CommandIsItsByteWrites := by
  intro i c ps s frame
  show exec i s = writeParams ps (acceptCommand c s)
  obtain busy | idle := s.busy.eq_false_or_eq_true
  · rw [exec_of_busy frame busy, acceptCommand_of_busy busy, writeParams_fault]
  · obtain ⟨op, named⟩ := named_of_encode frame
    have enough : ps.length = op.params := params_length frame named
    rw [exec_of_idle frame named idle]
    by_cases scan : op = .scan ∨ op = .scanDel
    · rw [acceptCommand_scan idle named scan, writeParams_refused]
      rcases scan with rfl | rfl <;> rfl
    · by_cases no_params : op.params = 0
      · obtain rfl := List.length_eq_zero_iff.mp (enough.trans no_params)
        rw [acceptCommand_dispatch idle named scan no_params]
        exact (dispatch_eq (s := commandAccepted c op s) named).symm
      · have missed : ps ≠ [] := fun nil => no_params (by rw [← enough, nil]; rfl)
        have collecting : (commandAccepted c op s).fsm = .params := if_neg no_params
        have missing : (commandAccepted c op s).params.length + ps.length = (commandAccepted c op s).nexp := by
          rw [enough]; exact Nat.zero_add _
        rw [acceptCommand_collect idle named scan no_params, writeParams_dispatches missed collecting missing]
        exact (dispatch_eq (s := atDispatch c op ps s) named).symm

/-- Settles O13: with the last parameter the machine is the one a whole command dispatches. -/
theorem parameterByteIsCollected : Obligations.ParameterByteIsCollected := by
  refine ⟨fun v s elsewhere => acceptParameter_elsewhere elsewhere v,
    fun v s collecting more => acceptParameter_more collecting more, fun i v s collecting busy last frame => ?_⟩
  obtain ⟨op, named⟩ := named_of_encode frame
  have count : s.nexp = op.params := by
    rw [← last, ← params_length frame named, List.length_append, List.length_singleton]
  have params : op.params ≠ 0 := by omega
  have same : ({ s with params := s.params ++ [v] } : State)
      = atDispatch s.cmd op (s.params ++ [v]) { s with busy := false } := by
    rw [atDispatch, commandAccepted, if_neg params, ← count, State.withParams, ← busy, ← collecting]
  rw [exec_wrParam, acceptParameter_last collecting last, exec_of_idle frame named rfl, ← same]
  exact dispatch_eq named

/-- The commands that wait for parameters, scans aside. -/
def Op.collected : List Op :=
  [.write128, .writeVar, .writeDel128, .writeDelVar, .read128, .readVar, .readDel128, .readDelVar, .readId, .verify128,
    .verifyVar, .format, .seek, .specify, .writeSpecial, .readSpecial]

theorem Op.collected_takes_params : ∀ op ∈ Op.collected, ¬ (op = .scan ∨ op = .scanDel) ∧ op.params ≠ 0 := by decide

/-- Settles O12: the rows are the codes and counts of the commands that wait for parameters. -/
theorem commandByteIsAccepted : Obligations.CommandByteIsAccepted := by
  refine ⟨fun sel row s idle listed => ?_, fun sel s idle => ?_⟩
  · obtain ⟨op, waits, rfl⟩ : ∃ op ∈ Op.collected, (op.code, op.params) = row := List.mem_map.mp listed
    obtain ⟨not_scan, params⟩ := Op.collected_takes_params op waits
    have accepted : exec (.wrCommand (commandByte sel op)) s = _ :=
      acceptCommand_collect idle (ofCode_commandByte sel op) not_scan params
    rw [commandAccepted, if_neg params] at accepted
    exact accepted
  · exact (commandIsItsByteWrites (.readStatus sel) _ [] s rfl).symm

/-! ## Operands -/

/-- The sector size of a size-count byte in numbers (30_encoding.md R87). -/
theorem sizeOf_eq (z : Byte) : Machine.sizeOf z = 128 * 2 ^ (z.toNat / 32) := by
  have in_field : z.toNat / 32 < 8 := by omega
  rw [Machine.sizeOf, BitVec.extractLsb'_toNat, Nat.shiftRight_eq_div_pow, Nat.shiftLeft_eq]
  exact congrArg (fun k => 128 * 2 ^ k) (Nat.mod_eq_of_lt in_field)

/-- The sector count of a size-count byte in numbers (30_encoding.md R87). -/
theorem countOf_eq (z : Byte) : countOf z = z.toNat % 32 := by
  rw [countOf, BitVec.extractLsb'_toNat, Nat.shiftRight_zero]

/-- Settles O27: form by form, with the size-count byte in numbers. -/
theorem operandsComeFromTheParameters : Obligations.OperandsComeFromTheParameters := by
  intro p o
  rw [← sizeOf_eq, ← countOf_eq]
  refine ⟨?_, ?_, rfl, rfl, rfl⟩ <;>
    · intro op form
      simp only [List.mem_cons, List.not_mem_nil, or_false] at form
      rcases form with rfl | rfl | rfl | rfl | rfl <;> rfl

end Sys2Proof.Machine
end

section
/-! PROOFS. The invariants of the world around the controller (drives, discs, scheduler): each elementary change of
`Change` keeps them, so every step does. -/

namespace Sys2Proof.Machine

/-- What every elementary change keeps, a step keeps. -/
theorem step_keeps {P : State → Prop} (each : ∀ s t, Change s t → P s → P t) {s t : State} (next : step s = .next t)
    (holds : P s) : P t := by
  have chain : Evolves s t := step_leads s t next
  clear next
  induction chain with
  | refl => exact holds
  | tail _ change kept => exact each _ _ change kept

/-! ## Drives of a changed state -/

theorem drive_congr {s t : State} (zero : t.drive0 = s.drive0) (one : t.drive1 = s.drive1) (n : DriveId) :
    t.drive n = s.drive n := by
  cases n
  · exact zero
  · exact one

theorem Controlled.drive {s t : State} (c : Controlled s t) (n : DriveId) : t.drive n = s.drive n :=
  drive_congr c.drive0 c.drive1 n

/-- A step pulse leaves every drive's rotation, side and disc. -/
theorem seekTrack_drive_kept (n m : DriveId) (dirIn : Bool) (s : State) :
    ((seekTrack n dirIn s).drive m).rotation = (s.drive m).rotation
      ∧ ((seekTrack n dirIn s).drive m).side = (s.drive m).side
      ∧ ((seekTrack n dirIn s).drive m).disc = (s.drive m).disc := by
  rw [seekTrack_drive]
  split
  case isTrue same => rw [same]; exact ⟨rfl, rfl, rfl⟩
  case isFalse => exact ⟨rfl, rfl, rfl⟩

/-- The disc's turning leaves everything of a drive but its word index. -/
theorem advanceHead_drive_kept (n m : DriveId) (len : Nat) (s : State) :
    (advanceHead n len s).drive m = { s.drive m with word := ((advanceHead n len s).drive m).word } := by
  rw [advanceHead_drive]
  split
  case isTrue same => rw [same]
  case isFalse => rfl

theorem rearmRotation_drive (n m : DriveId) (s : State) :
    (rearmRotation n s).drive m
      = if m = n then (s.drive n).withRotation (some (s.armed s.cfg.pulsePeriod)) else s.drive m := by
  rw [rearmRotation, reschedule_rotation, countSeq_drive, setDrive_drive]

/-- Recording moves no drive. -/
theorem writePulses_drive {n : DriveId} {w : Slots} {k : Nat} {s t : State} (written : writePulses n w k s = some t)
    (m : DriveId) : t.drive m = s.drive m := by
  rw [writePulses_frame written]
  exact drive_congr rfl rfl m

/-! ## The lines -/

/-- `LinesInv` is about the port and, of each drive, its side and whether it spins. -/
theorem State.LinesInv.congr {s t : State} (lines : s.LinesInv) (cfg : t.cfg = s.cfg) (port : t.driveOut = s.driveOut)
    (rotation : ∀ n, (t.drive n).spinning = (s.drive n).spinning) (side : ∀ n, (t.drive n).side = (s.drive n).side) :
    t.LinesInv where
  spins n := by
    rw [rotation n, cfg, State.cur, State.headLoaded, port]
    exact lines.spins n
  side_follows n here current := by
    rw [State.cur, port] at current
    rw [cfg] at here
    rw [side n, port]
    exact lines.side_follows n here current

/-- A write of the port brings the lines to the drives (43_command_protocol.md R207, R208). -/
theorem setDriveOut_linesInv (v : Byte) {s : State} (lines : s.LinesInv) : (setDriveOut v s).LinesInv := by
  have written := setDriveOut_written v s
  refine ⟨fun n => ?spins, fun n here current => ?side⟩
  case spins =>
    rw [setDriveOut_cfg]
    obtain here | absent := (present s.cfg n).eq_false_or_eq_true
    · rw [Drive.spinning, written.rotation n here, here, Bool.true_and]
      split
      case isTrue turning => simp [turning]
      case isFalse still => simpa [Decidable.not_and_iff_or_not] using still
    · rw [written.absent n absent, lines.spins n, absent, Bool.false_and, Bool.false_and, Bool.false_and,
        Bool.false_and]
  case side =>
    rw [setDriveOut_cfg] at here
    rw [written.side n here, if_pos current, setDriveOut_driveOut, getLsbD_stepLine v 5 (by decide) (by decide)]

/-- The host's loading of a disc leaves the lines as the drives have them. -/
theorem withDisc_linesInv (n : DriveId) (disc : Option Nat) {s : State} (lines : s.LinesInv) :
    (s.setDrive n ((s.drive n).withDisc disc)).LinesInv := by
  refine lines.congr (setDrive_cfg _ _ _) (setDrive_driveOut _ _ _) (fun m => ?_) fun m => ?_ <;>
    · rw [setDrive_drive]
      split
      case isTrue same => rw [same]; rfl
      case isFalse => rfl

theorem Change.linesInv {s t : State} (change : Change s t) (lines : s.LinesInv) : t.LinesInv := by
  cases change with
  | control _ c =>
    exact lines.congr c.cfg c.driveOut (fun n => by rw [c.drive n]) fun n => by rw [c.drive n]
  | port v => exact setDriveOut_linesInv v lines
  | pulse n dirIn =>
    obtain ⟨_, _, _, moved⟩ := seekTrack_frame n dirIn s
    refine lines.congr (by rw [moved]) (by rw [moved]) (fun m => ?_) fun m => (seekTrack_drive_kept n m dirIn s).2.1
    rw [Drive.spinning, (seekTrack_drive_kept n m dirIn s).1]
    rfl
  | record n w k _ written =>
    have frame := writePulses_frame written
    refine lines.congr (by rw [frame]) (by rw [frame]) (fun m => ?_) fun m => ?_ <;> rw [writePulses_drive written m]
  | rearm n spinning =>
    refine lines.congr (setDrive_cfg _ _ _) (setDrive_driveOut _ _ _) (fun m => ?_) fun m => ?_ <;>
      rw [rearmRotation_drive] <;> split
    case refine_1.isTrue same => rw [same, spinning]; rfl
    case refine_2.isTrue same => rw [same]; rfl
    all_goals rfl
  | turn n len =>
    obtain ⟨_, _, _, turned⟩ := advanceHead_frame n len s
    refine lines.congr (by rw [turned]) (by rw [turned]) (fun m => ?_) fun m => ?_
    · rw [advanceHead_drive_kept]
      rfl
    · rw [advanceHead_drive_kept]
  | load n k _ _ => exact withDisc_linesInv n k lines
  | countdown | arm | disarm | clock | build | protect =>
    exact lines.congr rfl rfl (fun n => by cases n <;> rfl) fun n => by cases n <;> rfl

/-- Settles O56: the drives follow the lines through every elementary change. -/
theorem stepKeepsTheLines : Obligations.StepKeepsTheLines :=
  fun _ _ lines next => step_keeps (fun _ _ change => change.linesInv) next lines

/-! ## Time -/

/-- A task armed before stays in order while time stands and the sequence numbers go on. -/
theorem armedOk.mono {s t : State} {a : Option Armed} (ok : armedOk s a) (epoch : t.epoch = s.epoch)
    (seq : s.nextSeq ≤ t.nextSeq) : armedOk t a := by
  intro x armed
  obtain ⟨due, before⟩ := ok x armed
  rw [epoch]
  exact ⟨due, Nat.lt_of_lt_of_le before seq⟩

/-- A task armed now, its sequence number given out. -/
theorem armedOk_armed {s t : State} (d : Nat) (epoch : t.epoch = s.epoch) (seq : s.nextSeq < t.nextSeq) :
    armedOk t (some (s.armed d)) := by
  intro x armed
  obtain rfl := Option.some.inj armed
  rw [epoch]
  exact ⟨Nat.le_add_right _ _, seq⟩

theorem armedOk_none (s : State) : armedOk s none := fun _ armed => by cases armed

/-- Tasks that no change touches stay in order while time stands. -/
theorem State.TimeInv.congr {s t : State} (time : s.TimeInv) (epoch : t.epoch = s.epoch) (seq : s.nextSeq ≤ t.nextSeq)
    (timer : t.timer = s.timer) (rotation : ∀ n, (t.drive n).rotation = (s.drive n).rotation) : t.TimeInv := by
  refine ⟨?_, fun n => ?_⟩
  · rw [timer]
    exact time.1.mono epoch seq
  · rw [rotation n]
    exact (time.2 n).mono epoch seq

/-- A drive that a write of the port starts gets its first chunk in the future (40_environment.md R130). -/
theorem setDriveOut_timeInv (v : Byte) {s : State} (time : s.TimeInv) : (setDriveOut v s).TimeInv := by
  have written := setDriveOut_written v s
  have epoch : (setDriveOut v s).epoch = s.epoch := setDriveOut_epoch v s
  have seq := setDriveOut_nextSeq_le v s
  refine ⟨?_, fun n => ?_⟩
  · rw [setDriveOut_timer]
    exact time.1.mono epoch seq
  · obtain here | absent := (present s.cfg n).eq_false_or_eq_true
    · cases stopped : (s.drive n).rotation with
      | some a =>
        have kept := time.2 n
        rw [written.rotation n here, stopped]
        rw [stopped] at kept
        split
        · exact kept.mono epoch seq
        · exact armedOk_none _
      | none =>
        have turning := written.rotation n here
        rw [stopped] at turning
        rw [turning]
        split at turning
        case isFalse off => rw [if_neg off]; exact armedOk_none _
        case isTrue on =>
          rw [if_pos on]
          have taken := written.started n stopped (by rw [turning]; exact Option.some_ne_none _)
          exact armedOk_armed (s := s) _ epoch (by omega)
    · rw [written.absent n absent]
      exact (time.2 n).mono epoch seq

theorem Change.timeInv {s t : State} (change : Change s t) (time : s.TimeInv) : t.TimeInv ∧ s.epoch ≤ t.epoch := by
  cases change with
  | control _ c =>
    exact ⟨time.congr c.epoch c.nextSeq.ge c.timer fun n => by rw [c.drive n], c.epoch.ge⟩
  | port v => exact ⟨setDriveOut_timeInv v time, (setDriveOut_epoch v s).ge⟩
  | arm d =>
    refine ⟨⟨armedOk_armed d rfl (Nat.lt_succ_self _), fun n => ?_⟩, Nat.le_refl _⟩
    cases n
    · exact (time.2 .d0).mono rfl (Nat.le_succ _)
    · exact (time.2 .d1).mono rfl (Nat.le_succ _)
  | disarm =>
    refine ⟨⟨armedOk_none _, fun n => ?_⟩, Nat.le_refl _⟩
    cases n
    · exact time.2 .d0
    · exact time.2 .d1
  | pulse n dirIn =>
    obtain ⟨_, _, _, moved⟩ := seekTrack_frame n dirIn s
    exact ⟨time.congr (by rw [moved]) (by rw [moved]) (by rw [moved]) fun m => (seekTrack_drive_kept n m dirIn s).1,
      by rw [moved]⟩
  | record n w k _ written =>
    have frame := writePulses_frame written
    exact ⟨time.congr (by rw [frame]) (by rw [frame]) (by rw [frame]) fun m => by rw [writePulses_drive written m],
      by rw [frame]⟩
  | rearm n _ =>
    have epoch : (rearmRotation n s).epoch = s.epoch := setDrive_epoch _ _ _
    have seq : (rearmRotation n s).nextSeq = s.nextSeq + 1 := congrArg (· + 1) (setDrive_nextSeq _ _ _)
    refine ⟨⟨?_, fun m => ?_⟩, epoch.ge⟩
    · rw [show (rearmRotation n s).timer = s.timer from setDrive_timer _ _ _]
      exact time.1.mono epoch (by omega)
    · rw [rearmRotation_drive]
      split
      · exact armedOk_armed _ epoch (by omega)
      · exact (time.2 m).mono epoch (by omega)
  | turn n len =>
    obtain ⟨_, _, _, turned⟩ := advanceHead_frame n len s
    exact ⟨time.congr (by rw [turned]) (by rw [turned]) (by rw [turned]) fun m => by rw [advanceHead_drive_kept],
      by rw [turned]⟩
  | clock e passes => exact (passes time).symm
  | load n k _ _ =>
    refine ⟨time.congr (setDrive_epoch _ _ _) (setDrive_nextSeq _ _ _).ge (setDrive_timer _ _ _) fun m => ?_,
      (setDrive_epoch _ _ _).ge⟩
    rw [setDrive_drive]
    split
    case isTrue same => rw [same]; rfl
    case isFalse => rfl
  | countdown | build | protect =>
    exact ⟨time.congr rfl (Nat.le_refl _) rfl fun n => by cases n <;> rfl, Nat.le_refl _⟩

/-- Settles O58: no elementary change arms a task in the past, and the clock never passes an armed one. -/
theorem stepKeepsTimeInOrder : Obligations.StepKeepsTimeInOrder := by
  intro s t time next
  refine step_keeps (P := fun u => u.TimeInv ∧ s.epoch ≤ u.epoch) (fun u v change so_far => ?_) next
    ⟨time, Nat.le_refl _⟩
  obtain ⟨kept, later⟩ := change.timeInv so_far.1
  exact ⟨kept, Nat.le_trans so_far.2 later⟩

end Sys2Proof.Machine
end

section
/-! PROOFS. A disc under the head: what recording leaves of it (40_environment.md R126), its well-formedness, and the
invariant of the discs. -/

namespace Sys2Proof.Machine

/-! ## Reading after a write, of any memory -/

/-- A write leaves every other address, whatever the order of the memory's cells. -/
theorem Memory.read_write_other {a x : Nat} (m : Memory) (v : Byte) (other : x ≠ a) :
    (m.write a v).read x = m.read x := by
  have unlisted : ∀ (b : Byte) (m : Memory), Memory.read ((a, b) :: m) x = m.read x :=
    fun b m => if_neg (Ne.symm other)
  induction m with
  | nil =>
    unfold Memory.write
    split
    · rfl
    · exact unlisted v []
  | cons cell m ih =>
    obtain ⟨k, b⟩ := cell
    unfold Memory.write
    split
    · split
      · rfl
      · exact unlisted v _
    · split
      case isTrue here =>
        subst here
        rw [unlisted b m]
        split
        · rfl
        · exact unlisted v m
      case isFalse =>
        unfold Memory.read
        rw [ih]

/-- Several bytes written from an address on leave every address outside them. -/
theorem Memory.read_writeBytes_other {limit : Nat} (vs : List Byte) (m : Memory) (a x : Nat)
    (outside : x < a ∨ a + vs.length ≤ x) : (Memory.writeBytes limit m a vs).read x = m.read x := by
  induction vs generalizing m a with
  | nil => rfl
  | cons v vs ih =>
    simp only [List.length_cons] at outside
    unfold Memory.writeBytes
    rw [ih _ _ (by omega)]
    split
    · exact Memory.read_write_other m v (by omega)
    · rfl

theorem chunkBytes_length (w : Slots) (n : Nat) : (chunkBytes w n).length = n / 8 := by simp [chunkBytes]

/-! ## Tracks -/

@[simp] theorem writeSlots_length (t : Track) (word : Nat) (ph : Phase) (w : Slots) (n : Nat) :
    (t.writeSlots word ph w n).length = t.length := rfl

theorem writeSlots_wf {t : Track} (wf : t.wf = true) (word : Nat) (ph : Phase) (w : Slots) (n : Nat) :
    (t.writeSlots word ph w n).wf = true := by
  simp only [Track.wf, Bool.and_eq_true] at wf ⊢
  obtain ⟨⟨fits, canonical⟩, inside⟩ := wf
  obtain ⟨canonical', inside'⟩ := Memory.writeBytes_wf (chunkBytes w n) (4 * word + ph.bytes) canonical inside
  exact ⟨⟨fits, canonical'⟩, inside'⟩

/-! ## Discs -/

@[simp] theorem withSide_side (d : Disc) (sd x : Side) (ts : List Track) :
    (d.withSide sd ts).side x = if x = sd then ts else d.side x := by
  cases sd <;> cases x <;> rfl

theorem Disc.wf_iff (d : Disc) :
    d.wf = true ↔ (d.side .side0).length = (d.side .side1).length ∧ ∀ sd, ∀ t ∈ d.side sd, t.wf = true := by
  simp only [Disc.wf, Bool.and_eq_true, decide_eq_true_eq, List.all_eq_true, and_assoc]
  refine and_congr Iff.rfl ⟨fun sides sd => ?_, fun sides => ⟨sides .side0, sides .side1⟩⟩
  cases sd
  · exact sides.1
  · exact sides.2

theorem Disc.fits_iff (d : Disc) (c : Params) :
    d.fits c = true ↔ ∀ sd, ∀ t ∈ d.side sd, c.indexPulseWords < t.length := by
  simp only [Disc.fits, Bool.and_eq_true, decide_eq_true_eq, List.all_eq_true]
  refine ⟨fun sides sd => ?_, fun sides => ⟨sides .side0, sides .side1⟩⟩
  cases sd
  · exact sides.1
  · exact sides.2

/-- What recording leaves of a disc: its track under the head rewritten and waiting for a flush, everything else as it
was. -/
structure Recorded (d : Disc) (sd : Side) (phys word : Nat) (ph : Phase) (w : Slots) (n : Nat) (e : Disc) : Prop where
  side : ∀ x, e.side x = if x = sd then (d.side sd).modify phys (fun t => t.writeSlots word ph w n) else d.side x
  writeProtect : e.writeProtect = d.writeProtect
  dirty : e.dirty = some (sd, phys)

theorem Disc.writePulses_recorded {d e : Disc} {sd : Side} {phys word : Nat} {ph : Phase} {w : Slots} {n : Nat}
    (written : d.writePulses sd phys word ph w n = some e) : Recorded d sd phys word ph w n e := by
  unfold Disc.writePulses at written
  split at written
  case isFalse => cases written
  case isTrue =>
    obtain rfl := Option.some.inj written
    refine ⟨fun x => ?_, ?_, rfl⟩
    · rw [← withSide_side]
      cases x <;> rfl
    · cases sd <;> rfl

/-- A track of a recorded disc is one of the disc before, or such a one rewritten. -/
theorem Recorded.track_of_mem {d e : Disc} {sd x : Side} {phys word : Nat} {ph : Phase} {w : Slots} {n : Nat}
    (recorded : Recorded d sd phys word ph w n e) {t : Track} (on_side : t ∈ e.side x) :
    ∃ t' ∈ d.side x, t = t' ∨ t = t'.writeSlots word ph w n := by
  rw [recorded.side x] at on_side
  split at on_side
  case isFalse => exact ⟨t, on_side, .inl rfl⟩
  case isTrue same =>
    subst same
    obtain ⟨i, found⟩ := List.mem_iff_getElem?.mp on_side
    rw [List.getElem?_modify] at found
    obtain ⟨t', there, rfl⟩ := Option.map_eq_some_iff.mp found
    refine ⟨t', List.mem_of_getElem? there, ?_⟩
    by_cases under : phys = i
    · exact .inr (if_pos under)
    · exact .inl (if_neg under)

theorem Recorded.side_length {d e : Disc} {sd : Side} {phys word : Nat} {ph : Phase} {w : Slots} {n : Nat}
    (recorded : Recorded d sd phys word ph w n e) (x : Side) : (e.side x).length = (d.side x).length := by
  rw [recorded.side x]
  split
  case isTrue same => rw [same, List.length_modify]
  case isFalse => rfl

theorem Recorded.wf {d e : Disc} {sd : Side} {phys word : Nat} {ph : Phase} {w : Slots} {n : Nat}
    (recorded : Recorded d sd phys word ph w n e) (wf : d.wf = true) : e.wf = true := by
  rw [Disc.wf_iff] at wf ⊢
  obtain ⟨lengths, tracks⟩ := wf
  refine ⟨by rw [recorded.side_length, recorded.side_length, lengths], fun x t on_side => ?_⟩
  obtain ⟨t', before, rfl | rfl⟩ := recorded.track_of_mem on_side
  · exact tracks x _ before
  · exact writeSlots_wf (tracks x _ before) _ _ _ _

theorem Recorded.fits {d e : Disc} {sd : Side} {phys word : Nat} {ph : Phase} {w : Slots} {n : Nat} {c : Params}
    (recorded : Recorded d sd phys word ph w n e) (fits : d.fits c = true) : e.fits c = true := by
  rw [Disc.fits_iff] at fits ⊢
  intro x t on_side
  obtain ⟨t', before, rfl | rfl⟩ := recorded.track_of_mem on_side
  · exact fits x _ before
  · rw [writeSlots_length]
    exact fits x t' before

/-- Changing the disc in a drive that holds one. -/
theorem onDisc_eq {n : DriveId} {s : State} {k : Nat} (holds : (s.drive n).disc = some k) (f : Disc → Disc) :
    onDisc n f s = { s with discs := s.discs.modify k f } := by
  unfold onDisc
  split
  case h_1 empty => rw [holds] at empty; cases empty
  case h_2 j there =>
    rw [holds] at there
    obtain rfl := Option.some.inj there
    rfl

/-- What recording can do: nothing, or the disc in the drive is recorded on, unprotected, at the delivered position. -/
theorem writePulses_cases {n : DriveId} {w : Slots} {k : Nat} {s t : State} (written : writePulses n w k s = some t) :
    t = s ∨ ∃ i d e, (s.drive n).disc = some i ∧ s.discs[i]? = some d ∧ d.writeProtect = false
      ∧ Recorded d (s.drive n).side (s.drive n).phys (s.drive n).word (s.drive n).phase w k e
      ∧ t = { s with discs := s.discs.set i e } := by
  unfold writePulses at written
  split at written
  case h_1 => exact .inl (Option.some.inj written).symm
  case h_2 d there =>
    split at written
    case isTrue => exact .inl (Option.some.inj written).symm
    case isFalse writable =>
      obtain ⟨e, recorded, rfl⟩ := Option.map_eq_some_iff.mp written
      obtain ⟨i, holds, found⟩ := Option.bind_eq_some_iff.mp there
      refine .inr ⟨i, d, e, holds, found, Bool.not_eq_true _ ▸ writable, Disc.writePulses_recorded recorded, ?_⟩
      rw [onDisc_eq holds, List.modify_eq_set_getElem?, found]
      rfl

/-! ## The invariant of the discs -/

/-- Discs that differ only in what waits for a flush are as well formed, and the references stay good. -/
theorem State.DiscInv.of_sameDiscs {s t : State} (discs : s.DiscInv) (same : SameDiscs s t) (cfg : t.cfg = s.cfg) :
    t.DiscInv where
  discs_ok d listed := by
    have flushed : d.flush ∈ s.discs.map Disc.flush := by
      rw [← same.1]
      exact List.mem_map_of_mem listed
    obtain ⟨d', before, equal⟩ := List.mem_map.mp flushed
    obtain ⟨wf, fits⟩ := discs.discs_ok d' before
    rw [cfg, ← flush_wf d, ← flush_fits d, ← equal]
    exact ⟨wf, fits⟩
  references n k holds := by
    have lengths := congrArg List.length same.1
    rw [List.length_map, List.length_map] at lengths
    rw [same.2 n] at holds
    rw [lengths]
    exact discs.references n k holds

theorem Change.discInv {s t : State} (change : Change s t) (discs : s.DiscInv) : t.DiscInv := by
  cases change with
  | control _ c => exact discs.of_sameDiscs (.of_drives c.discs c.drive) c.cfg
  | port v => exact discs.of_sameDiscs (setDriveOut_sameDiscs v s) (setDriveOut_cfg v s)
  | pulse n dirIn =>
    obtain ⟨_, _, _, moved⟩ := seekTrack_frame n dirIn s
    exact discs.of_sameDiscs (seekTrack_sameDiscs n dirIn s) (by rw [moved])
  | turn n len =>
    obtain ⟨_, _, _, turned⟩ := advanceHead_frame n len s
    exact discs.of_sameDiscs (advanceHead_sameDiscs n len s) (by rw [turned])
  | rearm n _ =>
    refine discs.of_sameDiscs ⟨congrArg _ (setDrive_discs _ _ _), fun m => ?_⟩ (setDrive_cfg _ _ _)
    rw [rearmRotation_drive]
    split
    case isTrue same => rw [same]; rfl
    case isFalse => rfl
  | record n w k _ written =>
    obtain rfl | ⟨i, d, e, _, found, _, recorded, rfl⟩ := writePulses_cases written
    · exact discs
    · refine ⟨fun f listed => ?_, fun m j holds => ?_⟩
      · rcases List.mem_or_eq_of_mem_set listed with before | rfl
        · exact discs.discs_ok f before
        · obtain ⟨wf, fits⟩ := discs.discs_ok d (List.mem_of_getElem? found)
          exact ⟨recorded.wf wf, recorded.fits fits⟩
      · simp only [List.length_set]
        exact discs.references m j (by cases m <;> exact holds)
  | build d wf fits =>
    refine ⟨fun f listed => ?_, fun n k holds => ?_⟩
    · rcases List.mem_append.mp listed with before | new
      · exact discs.discs_ok f before
      · rw [List.mem_singleton.mp new]
        exact ⟨wf, fits⟩
    · have before := discs.references n k (by cases n <;> exact holds)
      simp only [List.length_append, List.length_singleton]
      omega
  | load n k _ there =>
    refine ⟨fun d listed => ?_, fun m j holds => ?_⟩
    · rw [setDrive_cfg]
      rw [setDrive_discs] at listed
      exact discs.discs_ok d listed
    · rw [setDrive_drive] at holds
      rw [setDrive_discs]
      split at holds
      case isFalse => exact discs.references m j holds
      case isTrue =>
        obtain rfl : k = some j := holds
        exact of_decide_eq_true there
  | protect k on =>
    refine ⟨fun d listed => ?_, fun n j holds => ?_⟩
    · obtain ⟨i, found⟩ := List.mem_iff_getElem?.mp listed
      rw [List.getElem?_modify] at found
      obtain ⟨d', before, rfl⟩ := Option.map_eq_some_iff.mp found
      have ok := discs.discs_ok d' (List.mem_of_getElem? before)
      by_cases named : k = i
      · rw [if_pos named]; exact ok
      · rw [if_neg named]; exact ok
    · simp only [List.length_modify]
      exact discs.references n j (by cases n <;> exact holds)
  | countdown | arm | disarm | clock =>
    exact discs.of_sameDiscs (.of_drives rfl fun n => by cases n <;> rfl) rfl

end Sys2Proof.Machine
end

section
/-! PROOFS. Seeking (44_seek.md R246 to R251): what a firing of the timer does in a seek, and the firings in a row. -/

namespace Sys2Proof.Machine

/-! ## The timer -/

theorem schedule_timer_eq {s : State} (unarmed : s.timer = none) (d : Nat) :
    State.schedule .timer d s = .next { s with timer := some (s.armed d), nextSeq := s.nextSeq + 1 } := by
  rw [State.schedule, task_timer, unarmed]
  rfl

theorem schedule_timer_armed {s : State} (armed : s.timer ≠ none) (d : Nat) :
    State.schedule .timer d s = .fault .doubleSchedule := by
  obtain ⟨a, holds⟩ := Option.ne_none_iff_exists'.mp armed
  rw [State.schedule, task_timer, holds]

/-! ## Registers of a seek -/

/-- The head-load field in numbers (30_encoding.md R97). -/
theorem headLoad_eq (r : Regs) : r.headLoad = r.headLoadUnload.toNat % 16 := by
  rw [Regs.headLoad, BitVec.extractLsb'_toNat, Nat.shiftRight_zero]

@[simp] theorem setTrack_headLoadUnload (r : Regs) (n : DriveId) (v : Byte) :
    (r.setTrack n v).headLoadUnload = r.headLoadUnload := by cases n <;> rfl

@[simp] theorem setTrack_settle (r : Regs) (n : DriveId) (v : Byte) : (r.setTrack n v).settle = r.settle := by
  cases n <;> rfl

/-- The machine once a seek has reached its target: the track register holds it (44_seek.md R249). -/
def landed (n : DriveId) (s : State) : State :=
  { s with regs := s.regs.setTrack n (if s.seek.recal then 0 else s.seek.target) }

/-- The machine in the delay after a seek (44_seek.md R249, R250). -/
def settlingFor (d : Nat) (s : State) : State :=
  { s with
    fsm := .seekSettle, cont := .postSeek, timer := some (s.armed d), nextSeq := s.nextSeq + 1 }

/-- The machine after a step pulse, in the delay that follows it (44_seek.md R246, R247). -/
def stepIssued (n : DriveId) (s : State) : State :=
  { seekTrack n s.seek.dirIn s with
    seek := { s.seek with steps := s.seek.steps - 1, stepped := true }
    cont := .step, timer := some (s.armed (s.regs.stepRate.toNat * s.cfg.stepUnit)), nextSeq := s.nextSeq + 1 }

theorem seekDelay_landed (n : DriveId) (s : State) : seekDelay (landed n s) = seekDelay s := by
  simp only [seekDelay, landed, headLoad_eq, setTrack_headLoadUnload, setTrack_settle]

/-! ## One firing -/

theorem issueStep_eq {n : DriveId} {s : State} (unarmed : s.timer = none) :
    issueStep n s = .next (stepIssued n s) := by
  obtain ⟨_, _, _, moved⟩ := seekTrack_frame n s.seek.dirIn s
  unfold issueStep stepIssued
  dsimp only
  rw [moved]
  exact schedule_timer_eq (by exact unarmed) _

theorem issueStep_armed {n : DriveId} {s : State} (armed : s.timer ≠ none) :
    issueStep n s = .fault .doubleSchedule := by
  obtain ⟨_, _, _, moved⟩ := seekTrack_frame n s.seek.dirIn s
  unfold issueStep
  dsimp only
  rw [moved]
  exact schedule_timer_armed (by exact armed) _

theorem finishSeek_eq (n : DriveId) (s : State) :
    finishSeek n s
      = if 0 < seekDelay s then
          State.schedule .timer (seekDelay s) { landed n s with fsm := .seekSettle, cont := .postSeek }
        else .next (postSeek (landed n s)) := by
  rw [← seekDelay_landed n s]
  rfl

theorem finishSeek_waits {n : DriveId} {s : State} (delay : 0 < seekDelay s) (unarmed : s.timer = none) :
    finishSeek n s = .next (settlingFor (seekDelay s) (landed n s)) := by
  rw [finishSeek_eq, if_pos delay]
  exact schedule_timer_eq (by exact unarmed) _

theorem finishSeek_armed {n : DriveId} {s : State} (delay : 0 < seekDelay s) (armed : s.timer ≠ none) :
    finishSeek n s = .fault .doubleSchedule := by
  rw [finishSeek_eq, if_pos delay]
  exact schedule_timer_armed (by exact armed) _

theorem finishSeek_goesOn {n : DriveId} {s : State} (no_delay : seekDelay s = 0) :
    finishSeek n s = .next (postSeek (landed n s)) := by
  rw [finishSeek_eq, no_delay]
  rfl

/-- The seek is on its target (44_seek.md R247). -/
def onTarget (n : DriveId) (s : State) : Prop :=
  (s.seek.recal = true ∧ (s.drive n).phys = 0) ∨ (s.seek.recal = false ∧ s.seek.steps = 0)

theorem seekStep_finishes {n : DriveId} {s : State} (there : onTarget n s) : seekStep n s = finishSeek n s := by
  rcases there with ⟨recal, home⟩ | ⟨seek, done⟩
  · simp [seekStep, recal, Drive.track0, home]
  · simp [seekStep, seek, done]

theorem seekStep_exhausted {n : DriveId} {s : State} (recal : s.seek.recal = true) (away : (s.drive n).phys ≠ 0)
    (used : s.seek.steps = 0) : seekStep n s = .fault .recalibrateExhausted := by
  simp [seekStep, recal, Drive.track0, away, used]

theorem seekStep_steps {n : DriveId} {s : State} (to_go : s.seek.steps ≠ 0)
    (away : s.seek.recal = true → (s.drive n).phys ≠ 0) : seekStep n s = issueStep n s := by
  cases recal : s.seek.recal with
  | true => simp [seekStep, recal, Drive.track0, away recal, to_go]
  | false => simp [seekStep, recal, to_go]

/-- What a seek can do next, where it does not stop: a step, the delay after the last one, or the command goes on. -/
inductive SeekOutcome (n : DriveId) (s : State) : State → Prop
  | steps (unarmed : s.timer = none) (to_go : s.seek.steps ≠ 0) : SeekOutcome n s (stepIssued n s)
  | waits (unarmed : s.timer = none) : SeekOutcome n s (settlingFor (seekDelay s) (landed n s))
  | goesOn : SeekOutcome n s (postSeek (landed n s))

/-- The cases of a seek's next step: on its target, out of steps, or away from it. -/
theorem seek_cases (n : DriveId) (s : State) :
    onTarget n s ∨ (s.seek.recal = true ∧ (s.drive n).phys ≠ 0 ∧ s.seek.steps = 0)
      ∨ (s.seek.steps ≠ 0 ∧ (s.seek.recal = true → (s.drive n).phys ≠ 0)) := by
  unfold onTarget
  cases s.seek.recal <;> by_cases used : s.seek.steps = 0 <;> by_cases home : (s.drive n).phys = 0 <;> simp [used, home]

theorem finishSeek_outcome {n : DriveId} {s t : State} (next : finishSeek n s = .next t) : SeekOutcome n s t := by
  obtain no_delay | delay := Nat.eq_zero_or_pos (seekDelay s)
  · rw [finishSeek_goesOn no_delay] at next
    cases next
    exact .goesOn
  · by_cases unarmed : s.timer = none
    · rw [finishSeek_waits delay unarmed] at next
      cases next
      exact .waits unarmed
    · rw [finishSeek_armed delay unarmed] at next
      cases next

theorem seekStep_outcome {n : DriveId} {s t : State} (next : seekStep n s = .next t) : SeekOutcome n s t := by
  rcases seek_cases n s with there | ⟨recal, away, used⟩ | ⟨to_go, away⟩
  · rw [seekStep_finishes there] at next
    exact finishSeek_outcome next
  · rw [seekStep_exhausted recal away used] at next
    cases next
  · rw [seekStep_steps to_go away] at next
    by_cases unarmed : s.timer = none
    · rw [issueStep_eq unarmed] at next
      cases next
      exact .steps unarmed to_go
    · rw [issueStep_armed unarmed] at next
      cases next

/-! ## After the seek -/

/-- Codes of commands outside the read family are latched as they are (60_exceptions.md R411). -/
theorem flagOf_of_command {s : State} {op : Op} (command : s.command = some op) (outside : op.inReadFamily = false) :
    flagOf s = 0x00 := by
  unfold flagOf State.inReadFamily
  rw [command, Option.any_some, outside, if_neg (by simp)]

theorem complete_endsWith_of_flagless {code : Byte} {s : State} (flagless : flagOf s = 0x00) :
    EndsWith code s (complete code s) := by
  have ends := complete_endsWith code s
  rw [flagless] at ends
  rwa [show code ||| 0x00 = code from BitVec.or_zero] at ends

theorem postSeek_seek {s : State} (command : s.command = some .seek) : postSeek s = complete 0x00 s := if_pos command

theorem postSeek_format {s : State} (command : s.command = some .format) :
    postSeek s = { s with fsm := .formatWaitIndex } := by
  unfold postSeek
  rw [command]
  rfl

theorem postSeek_other {s : State} (not_seek : s.command ≠ some .seek) (not_format : s.command ≠ some .format) :
    postSeek s = { s with fsm := .searchId, sr := 0, indexCount := 0 } :=
  (if_neg not_seek).trans (if_neg not_format)

/-! ## The statement of the timer -/

theorem onTimer_step {n : DriveId} {s : State} (seeking : s.fsm = .seekStep) (cont : s.cont = .step)
    (current : s.cur = some n) : onTimer s = seekStep n s := by
  unfold onTimer
  rw [cont, seeking, current]
  rfl

theorem onTimer_postSeek {s : State} (cont : s.cont = .postSeek) : onTimer s = .next (postSeek s) := by
  unfold onTimer
  rw [cont]

/-- The delay after a seek in the registers' numbers (44_seek.md R250). -/
theorem seekDelay_eq (s : State) :
    seekDelay s = if s.seek.newlyLoaded then s.regs.headLoadUnload.toNat % 16 * s.cfg.headLoadUnit
      else if s.seek.stepped then s.regs.settle.toNat * s.cfg.settleUnit else 0 := by
  rw [seekDelay, headLoad_eq]

/-- A step pulse in a seek whose state is said in full. -/
theorem stepIssued_eq {n : DriveId} {s : State} (cont : s.cont = .step) :
    stepIssued n s =
      { seekTrack n s.seek.dirIn s with
        seek := { s.seek with steps := s.seek.steps - 1, stepped := true }
        timer := some { expiry := s.epoch + s.regs.stepRate.toNat * s.cfg.stepUnit, seq := s.nextSeq }
        nextSeq := s.nextSeq + 1 } := by
  obtain ⟨_, _, _, moved⟩ := seekTrack_frame n s.seek.dirIn s
  rw [stepIssued, ← cont, moved]
  rfl

/-- Settles O31: the cases of `seek_cases`, and the three ways a command goes on. -/
theorem seekTimerStepsOrFinishes : Obligations.SeekTimerStepsOrFinishes := by
  refine ⟨fun n s delay seeking cont current unarmed delay_is => ?seek, fun s cont => ?afterDelay⟩
  case seek =>
    rw [← seekDelay_eq] at delay_is
    rw [onTimer_step seeking cont current]
    refine ⟨fun ⟨to_go, away⟩ => ?steps, fun recal away used => seekStep_exhausted recal away used,
      fun there r r_is => ?lands⟩
    case steps => rw [seekStep_steps to_go away, issueStep_eq unarmed, stepIssued_eq cont]
    case lands =>
      subst r_is delay_is
      rw [seekStep_finishes there]
      exact ⟨fun delay => finishSeek_waits delay unarmed, fun no_delay => finishSeek_goesOn no_delay⟩
  case afterDelay =>
    rw [onTimer_postSeek cont]
    refine ⟨fun seek => ⟨_, rfl, ?_⟩, fun format => by rw [postSeek_format format],
      fun not_seek not_format => by rw [postSeek_other not_seek not_format]⟩
    rw [postSeek_seek seek]
    exact complete_endsWith_of_flagless (flagOf_of_command seek rfl)

/-! ## Firings in a row -/

/-- The machine at the firing of its timer. -/
def fired (a : Armed) (s : State) : State := { s with epoch := a.expiry, timer := none }

theorem fireTimer_eq {s : State} {a : Armed} (armed : s.timer = some a) : fireTimer s = onTimer (fired a s) := by
  rw [fireTimer, armed]
  rfl

theorem fireTimer_seek {s : State} {a : Armed} {n : DriveId} (armed : s.timer = some a) (seeking : s.fsm = .seekStep)
    (cont : s.cont = .step) (current : s.cur = some n) : fireTimer s = seekStep n (fired a s) := by
  rw [fireTimer_eq armed]
  exact onTimer_step seeking cont current

theorem fireTimerTimes_succ {s u : State} (k : Nat) (first : fireTimer s = .next u) :
    fireTimerTimes (k + 1) s = fireTimerTimes k u := by
  rw [fireTimerTimes, first]
  rfl

/-- What a step pulse leaves as it was: all that the next firing looks at but the steps and the head's track. -/
structure SeekGoesOn (s t : State) : Prop where
  fsm : t.fsm = s.fsm
  cont : t.cont = .step
  cur : t.cur = s.cur
  cfg : t.cfg = s.cfg
  regs : t.regs = s.regs
  recal : t.seek.recal = s.seek.recal
  dirIn : t.seek.dirIn = s.seek.dirIn
  target : t.seek.target = s.seek.target
  steps : t.seek.steps = s.seek.steps - 1
  discs : SameDiscs s t

theorem stepIssued_goesOn (n : DriveId) (a : Armed) (s : State) : SeekGoesOn s (stepIssued n (fired a s)) := by
  obtain ⟨_, _, _, moved⟩ := seekTrack_frame n s.seek.dirIn (fired a s)
  have pulse : stepIssued n (fired a s) = { seekTrack n s.seek.dirIn (fired a s) with
    seek := { s.seek with steps := s.seek.steps - 1, stepped := true }
    cont := .step, timer := some { expiry := a.expiry + s.regs.stepRate.toNat * s.cfg.stepUnit, seq := s.nextSeq }
    nextSeq := s.nextSeq + 1 } := rfl
  have discs : SameDiscs s (seekTrack n s.seek.dirIn (fired a s)) :=
    (SameDiscs.of_drives (t := fired a s) rfl (drive_congr rfl rfl)).trans (seekTrack_sameDiscs _ _ _)
  rw [pulse]
  refine ⟨?_, rfl, ?_, ?_, ?_, rfl, rfl, rfl, rfl, discs.trans (.of_drives rfl (drive_congr rfl rfl))⟩ <;>
    rw [moved] <;> rfl

theorem stepIssued_phys (n : DriveId) (s : State) :
    ((stepIssued n s).drive n).phys = steppedTrack s.cfg (doubleStep s.cfg n) s.seek.dirIn (s.drive n).phys := by
  have same : (stepIssued n s).drive n = (seekTrack n s.seek.dirIn s).drive n := drive_congr rfl rfl n
  rw [same, seekTrack_drive_same]
  rfl

theorem fired_drive (a : Armed) (s : State) (n : DriveId) : (fired a s).drive n = s.drive n := drive_congr rfl rfl n

/-- A firing in a seek with steps to go is a step pulse and its delay. -/
theorem fireTimer_steps {s : State} {a : Armed} {n : DriveId} (armed : s.timer = some a) (seeking : s.fsm = .seekStep)
    (cont : s.cont = .step) (current : s.cur = some n) (to_go : s.seek.steps ≠ 0)
    (away : s.seek.recal = true → (s.drive n).phys ≠ 0) : fireTimer s = .next (stepIssued n (fired a s)) := by
  rw [fireTimer_seek armed seeking cont current, seekStep_steps (s := fired a s) to_go fun recal => by
    rw [fired_drive]
    exact away recal]
  exact issueStep_eq rfl

/-- Going on after a seek leaves the registers, the discs and the heads where they are. -/
theorem postSeek_leaves (s : State) :
    (postSeek s).regs = s.regs ∧ SameDiscs s (postSeek s) ∧ SameTracks s (postSeek s) := by
  unfold postSeek
  split
  · exact ⟨complete_regs _ _, complete_sameDiscs _ _, complete_sameTracks _ _⟩
  · split
    · exact ⟨rfl, .of_drives rfl (drive_congr rfl rfl), .of_drives (drive_congr rfl rfl)⟩
    · exact ⟨rfl, .of_drives rfl (drive_congr rfl rfl), .of_drives (drive_congr rfl rfl)⟩

/-- A firing in a seek on its target writes the target to the track register and moves no head. -/
theorem fireTimer_lands {s : State} {a : Armed} {n : DriveId} (armed : s.timer = some a) (seeking : s.fsm = .seekStep)
    (cont : s.cont = .step) (current : s.cur = some n) (there : onTarget n s) :
    ∃ t, fireTimer s = .next t ∧ t.regs = s.regs.setTrack n (if s.seek.recal then 0 else s.seek.target)
      ∧ SameDiscs s t ∧ SameTracks s t := by
  have on_target : onTarget n (fired a s) := by
    unfold onTarget
    rw [fired_drive]
    exact there
  rw [fireTimer_seek armed seeking cont current, seekStep_finishes on_target]
  obtain no_delay | delay := Nat.eq_zero_or_pos (seekDelay (fired a s))
  · obtain ⟨regs, discs, tracks⟩ := postSeek_leaves (landed n (fired a s))
    exact ⟨_, finishSeek_goesOn no_delay, regs, (SameDiscs.of_drives rfl (drive_congr rfl rfl)).trans discs,
      (SameTracks.of_drives (drive_congr rfl rfl)).trans tracks⟩
  · exact ⟨_, finishSeek_waits delay rfl, rfl, .of_drives rfl (drive_congr rfl rfl),
      .of_drives (drive_congr rfl rfl)⟩

/-- The steps of a seek, one firing each (44_seek.md R247). -/
theorem fireTimerTimes_steps {k : Nat} {n : DriveId} {s : State} {a : Armed} (seeking : s.fsm = .seekStep)
    (cont : s.cont = .step) (current : s.cur = some n) (seek : s.seek.recal = false) (steps : s.seek.steps = k)
    (armed : s.timer = some a) :
    ∃ u, fireTimerTimes k s = .next u ∧ u.fsm = .seekStep ∧ u.cont = .step ∧ u.cur = some n ∧ u.seek.recal = false
      ∧ u.seek.steps = 0 ∧ u.seek.target = s.seek.target ∧ u.regs = s.regs ∧ SameDiscs s u
      ∧ (u.drive n).phys = steppedTimes s.cfg (doubleStep s.cfg n) s.seek.dirIn k (s.drive n).phys
      ∧ u.timer.map Armed.expiry = some (a.expiry + k * (s.regs.stepRate.toNat * s.cfg.stepUnit)) := by
  induction k generalizing s a with
  | zero =>
    refine ⟨s, rfl, seeking, cont, current, seek, steps, rfl, rfl, .refl s, rfl, ?_⟩
    rw [armed]
    simp
  | succ k ih =>
    have first := fireTimer_steps armed seeking cont current (by omega) (by rw [seek]; exact fun e => by cases e)
    have goes := stepIssued_goesOn n a s
    have phys := stepIssued_phys n (fired a s)
    rw [fired_drive] at phys
    obtain ⟨u, run, fsm, cont', cur, recal, done, target, regs, discs, track, expiry⟩ :=
      ih (s := stepIssued n (fired a s))
        (a := { expiry := a.expiry + s.regs.stepRate.toNat * s.cfg.stepUnit, seq := s.nextSeq })
        (goes.fsm.trans seeking) goes.cont (goes.cur.trans current) (goes.recal.trans seek)
        (by rw [goes.steps]; omega) rfl
    refine ⟨u, (fireTimerTimes_succ k first).trans run, fsm, cont', cur, recal, done, target.trans goes.target,
      regs.trans goes.regs, goes.discs.trans discs, ?_, ?_⟩
    · rw [track, goes.cfg, goes.dirIn, phys]
      rfl
    · rw [expiry, goes.cfg, goes.regs, Nat.succ_mul]
      simp only [Option.some.injEq]
      omega

/-- Settles O32: the steps by induction on their number, then the firing on the target. -/
theorem seekEndsAfterItsSteps : Obligations.SeekEndsAfterItsSteps := by
  intro k n s a seeking cont current seek steps armed
  obtain ⟨u, run, fsm, cont', cur, recal, done, target, regs, discs, track, expiry⟩ :=
    fireTimerTimes_steps seeking cont current seek steps armed
  obtain ⟨b, armed', -⟩ := Option.map_eq_some_iff.mp expiry
  obtain ⟨t, last, lands, -, tracks⟩ := fireTimer_lands armed' fsm cont' cur (.inr ⟨recal, done⟩)
  rw [recal, regs, target] at lands
  exact ⟨u, t, run, fsm, cont', done, regs, discs, track, expiry, last, lands, tracks n⟩

/-- A step outwards brings a head that is not on track 0 nearer to it. -/
theorem steppedTrack_outwards_lt {c : Params} (double : Bool) {phys : Nat} (away : phys ≠ 0) :
    steppedTrack c double false phys < phys := by
  unfold steppedTrack
  cases double <;> simp <;> omega

/-- Settles O33: by strong induction on the head's track, each step of a recalibrate bringing it nearer to 0. -/
theorem recalibrateReachesTrackZero : Obligations.RecalibrateReachesTrackZero := by
  intro n s seeking cont current recal outwards armed budget
  induction distance_is : (s.drive n).phys using Nat.strongRecOn generalizing s with
  | ind distance ih =>
    obtain ⟨a, armed⟩ := Option.isSome_iff_exists.mp armed
    by_cases home : distance = 0
    · obtain ⟨t, lands, regs, discs, tracks⟩ := fireTimer_lands armed seeking cont current
        (.inl ⟨recal, distance_is.trans home⟩)
      rw [recal] at regs
      exact ⟨0, t, Nat.zero_le _, fireTimerTimes_succ 0 lands, by rw [tracks n]; omega, regs, discs⟩
    · have away : (s.drive n).phys ≠ 0 := by omega
      have first := fireTimer_steps armed seeking cont current (by omega) fun _ => away
      have goes := stepIssued_goesOn n a s
      have phys := stepIssued_phys n (fired a s)
      have nearer := steppedTrack_outwards_lt (c := s.cfg) (doubleStep s.cfg n) away
      rw [fired_drive] at phys
      rw [← outwards] at nearer
      have phys_lt : ((stepIssued n (fired a s)).drive n).phys < (s.drive n).phys := phys.trans_lt nearer
      obtain ⟨k, t, within, run, zero, regs, discs⟩ := ih _ (by omega) (stepIssued n (fired a s))
        (goes.fsm.trans seeking) goes.cont (goes.cur.trans current) (goes.recal.trans recal)
        (goes.dirIn.trans outwards) rfl (by rw [goes.steps]; omega) rfl
      refine ⟨k + 1, t, by omega, (fireTimerTimes_succ (k + 1) first).trans run, zero, ?_, goes.discs.trans discs⟩
      rw [regs, goes.regs]

end Sys2Proof.Machine
end

section
/-! PROOFS. The start of a drive command: the checks of its dispatch (43_command_protocol.md R209 to R216), its head load,
and the plan of its seek (44_seek.md R241). -/

namespace Sys2Proof.Machine

/-! ## The drive of a command -/

/-- Select bits other than 01 and 10 name no drive (10_state.md R47). -/
theorem selected_none {c : Byte} (not_zero : c.extractLsb' 6 2 ≠ 1) (not_one : c.extractLsb' 6 2 ≠ 2) :
    selected c = none := by
  unfold selected selOf
  split
  case h_1 one => exact absurd (BitVec.eq_of_toNat_eq one) not_zero
  case h_2 two => exact absurd (BitVec.eq_of_toNat_eq two) not_one
  case h_3 => rfl

theorem exec_drive_of_idle {i : Instr} {c : Byte} {ps : List Byte} {op : Op} {s : State}
    (frame : encode i = .command (c :: ps)) (named : Op.ofCode (codeOf c) = some op) (drive : op.isDrive = true)
    (idle : s.busy = false) : exec i s = startDriveCommand op (selectFromCommand (atDispatch c op ps s)) := by
  rw [exec_drive s frame named drive, idle]
  rfl

/-- Settles O21: after the selection no drive is current. -/
theorem driveCommandNeedsADrive : Obligations.DriveCommandNeedsADrive := by
  intro i c ps op s frame named drive idle not_zero not_one
  have no_drive : (selectFromCommand (atDispatch c op ps s)).cur = none :=
    (selectFromCommand_cur _).trans (selected_none not_zero not_one)
  rw [exec_drive_of_idle frame named drive idle, startDriveCommand, no_drive]

/-! ## Modes and operands -/

/-- At its dispatch, its select bits applied, a drive command has its parameters, its drive and the registers as they
were. -/
structure Dispatched (c : Byte) (ps : List Byte) (n : DriveId) (s d : State) : Prop where
  cur : d.cur = some n
  params : d.params = ps
  regs : d.regs = s.regs

theorem selectFromCommand_dispatched {c : Byte} {op : Op} {ps : List Byte} {n : DriveId} {s : State}
    (drive : selected c = some n) : Dispatched c ps n s (selectFromCommand (atDispatch c op ps s)) := by
  refine ⟨(selectFromCommand_cur _).trans drive, ?_, ?_⟩ <;>
    · obtain ⟨_, _, _, _, _, _, selection⟩ := selectFromCommand_frame (atDispatch c op ps s)
      rw [selection]
      rfl

theorem startDriveCommand_dma {op : Op} {n : DriveId} {d : State} (drive : d.cur = some n)
    (transfer : op.isTransfer = true) (dma : d.regs.nonDma = false) :
    startDriveCommand op d = .refused .dmaModeUnmodelled := by
  simp [startDriveCommand, drive, transfer, dma]

/-- A transfer command is in non-DMA mode (43_command_protocol.md R214). -/
def modeAccepted (op : Op) (r : Regs) : Prop := op.isTransfer = true → r.nonDma = true

theorem startDriveCommand_refused {op : Op} {n : DriveId} {d : State} {r : Refusal} (drive : d.cur = some n)
    (mode : modeAccepted op d.regs) (refused : checkOperands op (setOperands op d) = some r) :
    startDriveCommand op d = .refused r := by
  have accepted : (op.isTransfer && !d.regs.nonDma) = false := by
    cases transfer : op.isTransfer with
    | true => rw [mode transfer]; rfl
    | false => rfl
  simp [startDriveCommand, drive, accepted, refused]

theorem startDriveCommand_accepted {op : Op} {n : DriveId} {d : State} (drive : d.cur = some n)
    (mode : modeAccepted op d.regs) (accepted : checkOperands op (setOperands op d) = none) :
    startDriveCommand op d = startOnDrive op n (setOperands op d) := by
  have accepted_mode : (op.isTransfer && !d.regs.nonDma) = false := by
    cases transfer : op.isTransfer with
    | true => rw [mode transfer]; rfl
    | false => rfl
  simp [startDriveCommand, drive, accepted_mode, accepted]

/-- The five commands whose third parameter is a size-count byte, `FORMAT` aside. -/
theorem checkOperands_zeroCount {op : Op} {d : State}
    (counts : op ∈ ([.readVar, .readDelVar, .verifyVar, .writeVar, .writeDelVar] : List Op))
    (zero : (d.params.getD 2 0).toNat % 32 = 0) : checkOperands op (setOperands op d) = some .zeroCount := by
  have count : countOf (d.param 2) = 0 := (countOf_eq _).trans zero
  simp only [List.mem_cons, List.not_mem_nil, or_false] at counts
  rcases counts with rfl | rfl | rfl | rfl | rfl <;> exact if_pos count

theorem checkOperands_readId {d : State} (zero : d.params.getD 2 0 = 0) :
    checkOperands .readId (setOperands .readId d) = some .zeroCount :=
  if_pos (congrArg BitVec.toNat zero)

theorem checkOperands_format {d : State} :
    checkOperands .format (setOperands .format d)
      = if (d.params.getD 2 0).toNat % 32 = 0 then some .zeroCount
        else if d.params.getD 3 0 ≠ 0 then some .formatGap5 else none := by
  rw [← countOf_eq]
  rfl

/-- Operands a command accepts are not refused (43_command_protocol.md R215). -/
theorem checkOperands_accepted {op : Op} {d : State} (accepted : operandsAccepted op d.params) :
    checkOperands op (setOperands op d) = none := by
  cases op
  case readVar | readDelVar | verifyVar | writeVar | writeDelVar => exact if_neg accepted
  case readId => exact if_neg fun zero => accepted (BitVec.eq_of_toNat_eq zero)
  case format => exact (if_neg accepted.1).trans (if_neg (not_not.mpr accepted.2))
  all_goals rfl

/-- Settles O22: the mode is looked at before the operands, a count before the gap. -/
theorem dispatchRefusesModesAndOperands : Obligations.DispatchRefusesModesAndOperands := by
  intro i c ps op n s frame named drive idle sel
  obtain ⟨cur, params, regs⟩ := selectFromCommand_dispatched (op := op) (ps := ps) (s := s) sel
  rw [exec_drive_of_idle frame named drive idle]
  generalize selectFromCommand (atDispatch c op ps s) = d at cur params regs ⊢
  rw [← regs, ← params]
  refine ⟨fun transfer dma => startDriveCommand_dma cur transfer dma,
    fun mode counts zero => startDriveCommand_refused cur mode (checkOperands_zeroCount counts zero), ?readId,
    ?formatCount, ?formatGap, ?formatBoth⟩
  case readId =>
    rintro mode rfl zero
    exact startDriveCommand_refused cur (fun _ => mode) (checkOperands_readId zero)
  case formatCount =>
    rintro mode rfl zero -
    exact startDriveCommand_refused cur (fun _ => mode) (checkOperands_format.trans (if_pos zero))
  case formatGap =>
    rintro mode rfl some_count gap
    exact startDriveCommand_refused cur (fun _ => mode)
      (checkOperands_format.trans ((if_neg some_count).trans (if_pos gap)))
  case formatBoth =>
    rintro mode rfl zero -
    exact .inl (startDriveCommand_refused cur (fun _ => mode) (checkOperands_format.trans (if_pos zero)))

/-! ## The head load -/

/-- A drive command's parameters are at least one. -/
theorem params_ne_zero_of_isDrive {op : Op} (drive : op.isDrive = true) : op.params ≠ 0 := by
  cases op <;> first | exact absurd drive (by decide) | decide

/-- The machine once a drive command has loaded the head of its drive (43_command_protocol.md R206, R211, R212). -/
def headLoadedBy (op : Op) (c : Byte) (ps : List Byte) (s : State) : State :=
  loadHead { setOperands op (selectFromCommand (atDispatch c op ps s)) with deletedSeen := false }

/-- A command whose mode and operands are accepted goes on from its head load. -/
theorem exec_startsOnDrive {i : Instr} {c : Byte} {ps : List Byte} {op : Op} {n : DriveId} {s : State}
    (frame : encode i = .command (c :: ps)) (named : Op.ofCode (codeOf c) = some op) (drive : op.isDrive = true)
    (idle : s.busy = false) (sel : selected c = some n) (mode : modeAccepted op s.regs)
    (accepted : operandsAccepted op ps) :
    exec i s = startOnDrive op n (setOperands op (selectFromCommand (atDispatch c op ps s))) := by
  obtain ⟨cur, params, regs⟩ := selectFromCommand_dispatched (op := op) (ps := ps) (s := s) sel
  rw [exec_drive_of_idle frame named drive idle]
  refine startDriveCommand_accepted cur (by rw [regs]; exact mode) (checkOperands_accepted ?_)
  rw [params]
  exact accepted

theorem headLoadedBy_headLoadedFor {op : Op} {c : Byte} {ps : List Byte} (drive : op.isDrive = true)
    (enough : ps.length = op.params) (s : State) : HeadLoadedFor op c ps s (headLoadedBy op c ps s) := by
  have at_dispatch : atDispatch c op ps s
      = { s with cmd := c, busy := true, params := ps, nexp := ps.length, fsm := .params } := by
    rw [atDispatch, commandAccepted, if_neg (params_ne_zero_of_isDrive drive), enough]
    rfl
  rw [headLoadedBy, at_dispatch]
  exact loadHead_headLoadedFor s

/-- What a selection leaves of the registers a drive command looks at. -/
theorem Selected.rest_eq {sel : BitVec 2} {s a : State} (selection : Selected sel s a) :
    a = { s with
      driveOut := a.driveOut, drive0 := a.drive0, drive1 := a.drive1, discs := a.discs, nextSeq := a.nextSeq
      unload := a.unload } := by
  unfold Selected at selection
  split at selection
  · rw [selection]
  · exact selection.rest

/-- What a head load leaves as it was, and what it sets (43_command_protocol.md R212). -/
theorem HeadLoadedFor.rest_eq {op : Op} {c : Byte} {ps : List Byte} {s x : State} (loaded : HeadLoadedFor op c ps s x) :
    x = { s with
      driveOut := x.driveOut, drive0 := x.drive0, drive1 := x.drive1, discs := x.discs, nextSeq := x.nextSeq
      unload := x.unload, cmd := c, params := ps, nexp := ps.length, busy := true, fsm := .params
      op := operandsOf op (fun k => ps.getD k 0) s.op, deletedSeen := false
      seek := { s.seek with newlyLoaded := headWasUp (selOf c) s.driveOut } } := by
  obtain ⟨a, b, selection, written, rfl⟩ := loaded
  rw [written.rest, selection.rest_eq]

theorem atDispatch_sameDiscs (c : Byte) (op : Op) (ps : List Byte) (s : State) : SameDiscs s (atDispatch c op ps s) :=
  .of_drives rfl (drive_congr rfl rfl)

theorem atDispatch_sameTracks (c : Byte) (op : Op) (ps : List Byte) (s : State) :
    SameTracks s (atDispatch c op ps s) := .of_drives (drive_congr rfl rfl)

theorem headLoadedBy_sameDiscs (op : Op) (c : Byte) (ps : List Byte) (s : State) :
    SameDiscs s (headLoadedBy op c ps s) := by
  refine ((atDispatch_sameDiscs c op ps s).trans (selectFromCommand_sameDiscs _)).trans
    (SameDiscs.trans ?_ (loadHead_sameDiscs _))
  exact .of_drives rfl (drive_congr rfl rfl)

theorem headLoadedBy_sameTracks (op : Op) (c : Byte) (ps : List Byte) (s : State) :
    SameTracks s (headLoadedBy op c ps s) := by
  refine ((atDispatch_sameTracks c op ps s).trans (selectFromCommand_sameTracks _)).trans
    (SameTracks.trans ?_ (loadHead_sameTracks _))
  exact .of_drives (drive_congr rfl rfl)

theorem headLoadedBy_cur {op : Op} {c : Byte} {ps : List Byte} {n : DriveId} (s : State) (sel : selected c = some n) :
    (headLoadedBy op c ps s).cur = some n :=
  (loadHead_cur _).trans ((selectFromCommand_cur _).trans sel)

theorem headLoadedBy_headLoaded (op : Op) (c : Byte) (ps : List Byte) (s : State) :
    (headLoadedBy op c ps s).headLoaded = true := by
  rw [headLoadedBy, loadHead, raiseLines, setDriveOut_headLoaded, BitVec.getLsbD_or]
  exact Bool.or_true _

/-- After the head load the drive is ready if it is present and holds a disc (43_command_protocol.md R209). -/
theorem headLoadedBy_ready {op : Op} {c : Byte} {ps : List Byte} {n : DriveId} (s : State) (sel : selected c = some n) :
    (headLoadedBy op c ps s).ready n = (present s.cfg n && (s.disc n).isSome) := by
  have cfg : (selectFromCommand (atDispatch c op ps s)).cfg = s.cfg := by
    obtain ⟨_, _, _, _, _, _, selection⟩ := selectFromCommand_frame (atDispatch c op ps s)
    rw [selection]
    rfl
  have cur : (selectFromCommand (atDispatch c op ps s)).cur = some n := (selectFromCommand_cur _).trans sel
  have discs : SameDiscs s { setOperands op (selectFromCommand (atDispatch c op ps s)) with deletedSeen := false } :=
    ((atDispatch_sameDiscs c op ps s).trans (selectFromCommand_sameDiscs _)).trans
      (.of_drives rfl (drive_congr rfl rfl))
  rw [headLoadedBy, loadHead_ready _ n (by exact cur), discs.isSome n]
  exact congrArg (fun p => present p n && _) cfg

theorem startOnDrive_eq (op : Op) (n : DriveId) (c : Byte) (ps : List Byte) (s : State) :
    startOnDrive op n (setOperands op (selectFromCommand (atDispatch c op ps s)))
      = if !(headLoadedBy op c ps s).ready n then .next (complete 0x10 (headLoadedBy op c ps s))
        else if op.checksWriteProtect && (headLoadedBy op c ps s).protectedDisc n then
          .next (complete 0x12 (headLoadedBy op c ps s))
        else startSeek n (headLoadedBy op c ps s) := rfl

/-! ## The mechanical checks -/

/-- Unless it latches at once and unloads at once, the end of a command leaves the head as it was. -/
theorem complete_headLoaded {code : Byte} {s : State}
    (stays : s.cfg.completionDelay ≠ 0 ∨ s.regs.headLoadUnload.toNat / 16 ≠ 0) :
    (complete code s).headLoaded = s.headLoaded := by
  have gate_off : (clearLines writeGateLine s).disarm.headLoaded = s.headLoaded := by
    rw [disarm_headLoaded, clearLines, setDriveOut_headLoaded]
    exact getLsbD_clear s.driveOut writeGateLine 3 (by decide) (by decide)
  obtain now | later := Nat.eq_zero_or_pos s.cfg.completionDelay
  · have not_at_once : s.regs.headLoadUnload.toNat / 16 ≠ 0 := stays.resolve_left (not_not.mpr now)
    rw [complete_now _ _ now, ← gate_off, latch]
    by_cases never : s.regs.headLoadUnload.toNat / 16 = 15
    · rw [startUnload_never (by simpa using never)]
      rfl
    · rw [startUnload_later (by simpa using never) (by simpa using not_at_once)]
      rfl
  · rw [complete_later _ _ later, waitToLatch_headLoaded, gate_off]

/-- A command ended after its head load has ended as `EndedByCheck` says (43_command_protocol.md R213). -/
theorem complete_endedByCheck {op : Op} {c : Byte} {ps : List Byte} (code : Byte) (drive : op.isDrive = true)
    (enough : ps.length = op.params) (s : State) :
    EndedByCheck code op c ps s (complete code (headLoadedBy op c ps s)) := by
  have loaded := headLoadedBy_headLoadedFor (c := c) drive enough s
  have rest := loaded.rest_eq
  have up : (headLoadedBy op c ps s).headLoaded = true := headLoadedBy_headLoaded op c ps s
  have tracks := headLoadedBy_sameTracks op c ps s
  have discs := headLoadedBy_sameDiscs op c ps s
  generalize headLoadedBy op c ps s = x at loaded rest up tracks discs ⊢
  have flagless : flagOf x = 0x00 := by
    rw [flagOf, rest, if_neg (by simp)]
  refine ⟨x, loaded, complete_endsWith_of_flagless flagless, up, by rw [rest], by rw [rest], by rw [rest], by rw [rest],
    tracks.trans (complete_sameTracks _ _), discs.trans (complete_sameDiscs _ _), fun stays => ?_, fun delayed => ?_⟩
  · rw [complete_headLoaded, up]
    rw [rest]
    exact stays
  · have later : 0 < x.cfg.completionDelay := by rw [rest]; exact Nat.pos_of_ne_zero delayed
    rw [complete_later _ _ later]
    simp only [waitToLatch_result, waitToLatch_resultFull, waitToLatch_irq, waitToLatch_intLine, waitToLatch_drq,
      disarm_result, disarm_resultFull, disarm_irq, disarm_intLine, disarm_drq, clearLines_result,
      clearLines_resultFull, clearLines_irq, clearLines_intLine, clearLines_drq]
    rw [rest]
    exact ⟨rfl, rfl, rfl, rfl, rfl⟩

/-- Settles O23: both checks end the command in the machine its head load has left. -/
theorem mechanicalChecksEndAtDispatch : Obligations.MechanicalChecksEndAtDispatch := by
  intro i c ps op n s frame named drive idle sel mode accepted
  have enough := params_length frame named
  rw [exec_startsOnDrive frame named drive idle sel mode accepted, startOnDrive_eq, headLoadedBy_ready s sel]
  refine ⟨fun not_ready => ?notReady, fun here holds is_protected writes => ?writeProtected⟩
  case notReady =>
    have unready : (present s.cfg n && (s.disc n).isSome) = false := by
      rcases not_ready with absent | empty
      · rw [absent, Bool.false_and]
      · rw [empty, Option.isSome_none, Bool.and_false]
    rw [unready]
    exact ⟨_, rfl, complete_endedByCheck 0x10 drive enough s⟩
  case writeProtected =>
    have checks : op.checksWriteProtect = true := by
      have all : ∀ op ∈ ([.write128, .writeVar, .writeDel128, .writeDelVar, .format] : List Op),
          op.checksWriteProtect = true := by decide
      exact all op writes
    rw [here, holds, checks, (headLoadedBy_sameDiscs op c ps s).protectedDisc n, is_protected]
    exact ⟨_, rfl, complete_endedByCheck 0x12 drive enough s⟩

end Sys2Proof.Machine
end

section
/-! PROOFS. The seek a drive command begins with, from its plan to its first step, its delay or its end in the dispatch
(44_seek.md R241 to R251). -/

namespace Sys2Proof.Machine

/-! ## The plan -/

theorem operandsOf_reqTrack {op : Op} (drive : op.isDrive = true) (p : Nat → Byte) (o : Operands) :
    (operandsOf op p o).reqTrack = p 0 := by
  cases op <;> first | exact absurd drive (by decide) | rfl

/-- The plan of a seek in the terms of the statements (44_seek.md R241). -/
theorem planSeek_eq {n : DriveId} {ps : List Byte} {s x : State} (cfg : x.cfg = s.cfg) (regs : x.regs = s.regs)
    (track : x.op.reqTrack = ps.getD 0 0) :
    planSeek n x =
      { target := seekTarget n ps s, recal := decide (seekTarget n ps s = 0), dirIn := seeksIn n ps s
        steps := seekBudget n ps s, stepped := false, newlyLoaded := x.seek.newlyLoaded } := by
  have target : adjust x.regs n x.op.reqTrack = seekTarget n ps s := by rw [regs, track]; rfl
  unfold planSeek
  dsimp only
  rw [target, regs, cfg]
  unfold seeksIn seekBudget
  split
  case isTrue home => simp [home]
  case isFalse away =>
    have distance : (if s.regs.track n < seekTarget n ps s then
          (seekTarget n ps s).toNat - (s.regs.track n).toNat else (s.regs.track n).toNat - (seekTarget n ps s).toNat)
        = ((seekTarget n ps s).toNat - (s.regs.track n).toNat)
          + ((s.regs.track n).toNat - (seekTarget n ps s).toNat) := by
      split
      case isTrue inward => rw [BitVec.lt_def] at inward; omega
      case isFalse outward => rw [BitVec.lt_def] at outward; omega
    rw [distance]
    simpa using ⟨away, fun _ => away⟩

/-- The command's line changes at the seek's start: the direction line. -/
def directed (inward : Bool) (out : Byte) : Byte := if inward then out ||| 0x04 else out &&& 0xFB

/-- The machine as a drive command leaves it before the first step of its seek. -/
def seekPlanned (n : DriveId) (x : State) : State :=
  let t : State := { x with seek := planSeek n x }
  { setDriveOut (directed (planSeek n x).dirIn x.driveOut) t with fsm := .seekStep }

theorem startSeek_eq (n : DriveId) (x : State) : startSeek n x = seekStep n (seekPlanned n x) := by
  unfold startSeek seekPlanned directed
  dsimp only
  cases (planSeek n x).dirIn <;> rfl

theorem seekPlanned_frame (n : DriveId) (x : State) :
    ∃ ds d0 d1 k u, seekPlanned n x
      = { x with
          seek := planSeek n x, fsm := .seekStep
          driveOut := directed (planSeek n x).dirIn x.driveOut &&& ~~~stepLine
          discs := ds, drive0 := d0, drive1 := d1, nextSeq := k, unload := u } := by
  obtain ⟨ds, d0, d1, k, u, written⟩ := setDriveOut_frame (directed (planSeek n x).dirIn x.driveOut)
    { x with seek := planSeek n x }
  refine ⟨ds, d0, d1, k, u, ?_⟩
  unfold seekPlanned
  dsimp only
  rw [written]

theorem seekPlanned_sameDiscs (n : DriveId) (x : State) : SameDiscs x (seekPlanned n x) :=
  (SameDiscs.of_drives (s := x) rfl (drive_congr rfl rfl)).trans
    ((setDriveOut_sameDiscs _ { x with seek := planSeek n x }).trans (.of_drives rfl (drive_congr rfl rfl)))

theorem seekPlanned_sameTracks (n : DriveId) (x : State) : SameTracks x (seekPlanned n x) :=
  (SameTracks.of_drives (s := x) (drive_congr rfl rfl)).trans
    ((setDriveOut_sameTracks _ { x with seek := planSeek n x }).trans (.of_drives (drive_congr rfl rfl)))

/-! ## The port of a started command -/

theorem selectedPort_directed (inward : Bool) (out : Byte) :
    directed inward ((out ||| 0x08) &&& 0xFD) &&& 0xFD
      = ((((out ||| 0x08) &&& 0xFB) ||| (if inward then 0x04 else 0x00)) &&& 0xFD) := by
  unfold directed
  revert inward out
  decide

theorem selectedPort_masked (out : Byte) : ((out &&& 0xFD) ||| 0x08) &&& 0xFD = (out ||| 0x08) &&& 0xFD := by
  revert out
  decide

/-- The port through the three writes of a starting command. -/
theorem startedPort_eq {sel : BitVec 2} {inward : Bool} {s a : State} (selection : Selected sel s a) :
    directed inward ((a.driveOut ||| 0x08) &&& 0xFD) &&& 0xFD = startedPort sel inward s.driveOut := by
  rw [selectedPort_directed, startedPort]
  unfold Selected at selection
  split at selection
  case isTrue same =>
    rw [selection, selectedPort, if_pos same]
  case isFalse =>
    rw [← selectedPort_directed, selection.port, selectedPort_masked, selectedPort_directed]

/-- A direction change leaves the selection and the head-load line. -/
theorem selected_directed (inward : Bool) (out : Byte) : selected (directed inward out) = selected out := by
  cases inward
  · exact selected_clear out directionLine (by decide) (by decide)
  · exact selected_raise out directionLine (by decide) (by decide)

theorem getLsbD_directed_headLoad (inward : Bool) (out : Byte) :
    (directed inward out).getLsbD 3 = out.getLsbD 3 := by
  cases inward
  · exact getLsbD_clear out directionLine 3 (by decide) (by decide)
  · exact (BitVec.getLsbD_or).trans (Bool.or_false _)

/-! ## The started command -/

/-- From its head load a drive command plans its seek as `Started` says. -/
theorem seekPlanned_started {op : Op} {c : Byte} {ps : List Byte} {n : DriveId} {s : State} (drive : op.isDrive = true)
    (enough : ps.length = op.params) (sel : selected c = some n) (here : present s.cfg n = true) :
    Started op n c ps s (seekPlanned n (headLoadedBy op c ps s)) := by
  have discs := (headLoadedBy_sameDiscs op c ps s).trans (seekPlanned_sameDiscs n _)
  have tracks := (headLoadedBy_sameTracks op c ps s).trans (seekPlanned_sameTracks n _)
  have cur := headLoadedBy_cur (op := op) (ps := ps) s sel
  have up := headLoadedBy_headLoaded op c ps s
  have loaded := headLoadedBy_headLoadedFor (c := c) drive enough s
  generalize headLoadedBy op c ps s = x at discs tracks cur up loaded ⊢
  have rest := loaded.rest_eq
  have cfg : x.cfg = s.cfg := by rw [rest]
  have plan : planSeek n x = _ := planSeek_eq (ps := ps) (s := s) cfg (by rw [rest]) (by
    rw [rest]
    exact operandsOf_reqTrack drive _ _)
  have inward : (planSeek n x).dirIn = seeksIn n ps s := by rw [plan]
  have newly : x.seek.newlyLoaded = headWasUp (selOf c) s.driveOut := by rw [rest]
  obtain ⟨a, b, selection, written, x_is⟩ := loaded
  have b_port : b.driveOut = x.driveOut := by rw [x_is]
  have direction := setDriveOut_written (directed (planSeek n x).dirIn x.driveOut) { x with seek := planSeek n x }
  have spin : ∀ m, present s.cfg m = true →
      ((seekPlanned n x).drive m).spinning = decide (some n = some m) := by
    intro m there
    have drive_eq : (seekPlanned n x).drive m = (setDriveOut (directed (planSeek n x).dirIn x.driveOut)
        { x with seek := planSeek n x }).drive m := drive_congr rfl rfl m
    have current : (setDriveOut (directed (planSeek n x).dirIn x.driveOut) { x with seek := planSeek n x }).cur
        = some n := by
      rw [setDriveOut_cur, selected_directed]
      exact cur
    have loaded_head : (setDriveOut (directed (planSeek n x).dirIn x.driveOut)
        { x with seek := planSeek n x }).headLoaded = true := by
      rw [setDriveOut_headLoaded, getLsbD_directed_headLoad]
      exact up
    rw [drive_eq, Drive.spinning, direction.rotation m (by rw [← cfg] at there; exact there), current, loaded_head]
    by_cases same : n = m <;> simp [same]
  have frame := direction.frame b.cmd b.busy b.params b.nexp b.fsm b.op b.deletedSeen b.seek
  let w : State := {
    setDriveOut (directed (planSeek n x).dirIn x.driveOut) { x with seek := planSeek n x } with
      cmd := b.cmd, busy := b.busy, params := b.params, nexp := b.nexp, fsm := b.fsm, op := b.op
      deletedSeen := b.deletedSeen, seek := b.seek }
  refine ⟨⟨a, b, w, selection, written, ?direction, ?state⟩, ?port, ?spins, ?others, tracks, discs, ?unload⟩
  case spins => rw [spin n here]; exact decide_eq_true rfl
  case others =>
    intro m other there
    rw [spin m there]
    exact decide_eq_false fun same => other (Option.some.inj same).symm
  case direction =>
    rw [← inward, b_port]
    have b_is : ({ x with
        cmd := b.cmd, busy := b.busy, params := b.params, nexp := b.nexp, fsm := b.fsm, op := b.op
        deletedSeen := b.deletedSeen, seek := b.seek } : State) = b := by rw [x_is]
    rw [← b_is]
    exact frame
  case state =>
    obtain ⟨_, _, _, _, _, planned⟩ := setDriveOut_frame (directed (planSeek n x).dirIn x.driveOut)
      { x with seek := planSeek n x }
    unfold w seekPlanned
    dsimp only
    rw [planned, plan, newly, x_is]
  case port =>
    rw [← startedPort_eq selection, ← written.port, b_port, ← inward]
    exact direction.port
  case unload =>
    have no_countdown : x.unload = none := by
      rw [x_is]
      show b.unload = none
      rw [written.unload]
      split <;> rfl
    show (setDriveOut _ { x with seek := planSeek n x }).unload = none
    rw [setDriveOut_unload]
    split
    · rfl
    · exact no_countdown

/-- What a started command leaves as it was, and the seek it has planned. -/
theorem Started.rest_eq {op : Op} {n : DriveId} {c : Byte} {ps : List Byte} {s t : State}
    (started : Started op n c ps s t) :
    t = { s with
      driveOut := t.driveOut, drive0 := t.drive0, drive1 := t.drive1, discs := t.discs, nextSeq := t.nextSeq
      unload := t.unload, cmd := c, params := ps, nexp := ps.length, busy := true, fsm := .seekStep
      op := operandsOf op (fun k => ps.getD k 0) s.op, deletedSeen := false
      seek := {
        target := seekTarget n ps s, recal := decide (seekTarget n ps s = 0), dirIn := seeksIn n ps s
        steps := seekBudget n ps s, stepped := false, newlyLoaded := headWasUp (selOf c) s.driveOut } } := by
  obtain ⟨a, b, w, selection, loaded, directed, rfl⟩ := started.writes
  rw [directed.rest, loaded.rest, selection.rest_eq]

/-- A drive command that passes every check goes on to its seek in its dispatch (43_command_protocol.md R210). -/
theorem exec_starts {i : Instr} {c : Byte} {ps : List Byte} {op : Op} {n : DriveId} {s : State}
    (frame : encode i = .command (c :: ps)) (named : Op.ofCode (codeOf c) = some op) (drive : op.isDrive = true)
    (idle : s.busy = false) (sel : selected c = some n) (startable : Startable op n ps s) :
    ∃ u, Started op n c ps s u ∧ exec i s = seekStep n u := by
  refine ⟨_, seekPlanned_started drive (params_length frame named) sel startable.drive_present, ?_⟩
  rw [exec_startsOnDrive frame named drive idle sel startable.nonDma startable.operands, startOnDrive_eq,
    headLoadedBy_ready s sel, startable.drive_present, startable.disc_loaded,
    (headLoadedBy_sameDiscs op c ps s).protectedDisc n, ← startSeek_eq]
  have writable : (op.checksWriteProtect && s.protectedDisc n) = false := by
    cases checks : op.checksWriteProtect with
    | true => rw [startable.writable checks]; rfl
    | false => rfl
  rw [writable]
  rfl

/-! ## Where the seek begins -/

theorem Started.command {op : Op} {n : DriveId} {c : Byte} {ps : List Byte} {s t : State}
    (started : Started op n c ps s t) (named : Op.ofCode (codeOf c) = some op) : t.command = some op := by
  rw [started.rest_eq]
  exact named

/-- A seek that begins on its target. -/
theorem Started.onTarget {op : Op} {n : DriveId} {c : Byte} {ps : List Byte} {s t : State}
    (started : Started op n c ps s t) (in_place : ¬ needsStep n ps s) : onTarget n t := by
  have tracks := started.tracks n
  rw [started.rest_eq] at tracks ⊢
  unfold needsStep at in_place
  unfold Machine.onTarget
  by_cases home : seekTarget n ps s = 0
  · rw [if_pos home] at in_place
    exact .inl ⟨decide_eq_true home, tracks.trans (not_not.mp in_place)⟩
  · rw [if_neg home] at in_place
    refine .inr ⟨decide_eq_false home, ?_⟩
    show seekBudget n ps s = 0
    rw [seekBudget, if_neg home, not_not.mp in_place]
    omega

/-- A seek that begins away from its target has steps to go. -/
theorem Started.away {op : Op} {n : DriveId} {c : Byte} {ps : List Byte} {s t : State}
    (started : Started op n c ps s t) (needed : needsStep n ps s) (limit : s.cfg.recalStepLimit ≠ 0) :
    t.seek.steps ≠ 0 ∧ (t.seek.recal = true → (t.drive n).phys ≠ 0) := by
  have tracks := started.tracks n
  rw [started.rest_eq] at tracks ⊢
  unfold needsStep at needed
  by_cases home : seekTarget n ps s = 0
  · rw [if_pos home] at needed
    refine ⟨?_, fun _ => ?_⟩
    · show seekBudget n ps s ≠ 0
      rw [seekBudget, if_pos home]
      exact limit
    · rw [tracks]
      exact needed
  · rw [if_neg home] at needed
    have apart : (seekTarget n ps s).toNat ≠ (s.regs.track n).toNat := fun same => needed (BitVec.eq_of_toNat_eq same)
    refine ⟨?_, fun recal => absurd (of_decide_eq_true recal) home⟩
    show seekBudget n ps s ≠ 0
    rw [seekBudget, if_neg home]
    omega

theorem Started.delay {op : Op} {n : DriveId} {c : Byte} {ps : List Byte} {s t : State}
    (started : Started op n c ps s t) : seekDelay t = headDelay (selOf c) s := by
  rw [seekDelay_eq, started.rest_eq]
  rfl

/-- The track register of a command on its track holds the target, which is 0 for a recalibrate (44_seek.md R249). -/
theorem Started.landed_eq {op : Op} {n : DriveId} {c : Byte} {ps : List Byte} {s t : State}
    (started : Started op n c ps s t) :
    landed n t = { t with regs := s.regs.setTrack n (seekTarget n ps s) } := by
  have regs : t.regs = s.regs := by rw [started.rest_eq]
  have target : (if t.seek.recal then 0 else t.seek.target) = seekTarget n ps s := by
    rw [started.rest_eq]
    show (if decide (seekTarget n ps s = 0) = true then 0 else seekTarget n ps s) = seekTarget n ps s
    by_cases home : seekTarget n ps s = 0
    · rw [decide_eq_true home, home, if_pos rfl]
    · rw [decide_eq_false home, if_neg Bool.false_ne_true]
  rw [landed, target, regs]

/-! ## The statements -/

/-- Settles O24: a step pulse of the started machine, and the delay after it. -/
theorem driveCommandTakesItsFirstStep : Obligations.DriveCommandTakesItsFirstStep := by
  intro i c ps op n s frame named drive idle unarmed limit sel startable needed
  obtain ⟨u, started, run⟩ := exec_starts frame named drive idle sel startable
  obtain ⟨to_go, away⟩ := started.away needed limit
  have rest := started.rest_eq
  have timer : u.timer = none := by rw [rest]; exact unarmed
  have inward : u.seek.dirIn = seeksIn n ps s := by rw [rest]
  have cfg : u.cfg = s.cfg := by rw [rest]
  rw [seekStep_steps to_go away, issueStep_eq timer] at run
  have drives (m : DriveId) : (stepIssued n u).drive m = (seekTrack n (seeksIn n ps s) u).drive m := by
    rw [← inward]
    exact drive_congr rfl rfl m
  refine ⟨u, _, started, run, ?drive, fun m other => ?others, ?discs, ?state⟩
  case drive => rw [drives, seekTrack_drive_same, cfg]
  case others => rw [drives, seekTrack_drive_other _ _ other]
  case discs => exact seekTrack_discs n _ u
  case state =>
    have epoch : u.epoch = s.epoch := by rw [rest]
    have regs : u.regs = s.regs := by rw [rest]
    obtain ⟨_, _, _, moved⟩ := seekTrack_frame n u.seek.dirIn u
    rw [← epoch, ← regs, ← cfg, stepIssued, moved]
    rfl

/-- Settles O25: on its target the seek ends in the head-load delay. -/
theorem driveCommandInPlaceLoadsTheHead : Obligations.DriveCommandInPlaceLoadsTheHead := by
  intro i c ps op n s frame named drive idle unarmed sel startable in_place delay
  obtain ⟨u, started, run⟩ := exec_starts frame named drive idle sel startable
  have timer : u.timer = none := by rw [started.rest_eq]; exact unarmed
  have epoch : u.epoch = s.epoch := by rw [started.rest_eq]
  refine ⟨u, started, ?_⟩
  rw [run, seekStep_finishes (started.onTarget in_place), finishSeek_waits (by rw [started.delay]; exact delay) timer,
    started.delay, started.landed_eq, ← epoch]
  rfl

/-- Settles O26: on its target with no delay the command goes on as `postSeek` says. -/
theorem driveCommandInPlaceGoesOn : Obligations.DriveCommandInPlaceGoesOn := by
  intro i c ps op n s frame named drive idle unarmed sel startable in_place no_delay
  obtain ⟨u, started, run⟩ := exec_starts frame named drive idle sel startable
  refine ⟨u, _, started, rfl, ?_⟩
  have command : ({ u with regs := s.regs.setTrack n (seekTarget n ps s) } : State).command = some op :=
    started.command named
  rw [seekStep_finishes (started.onTarget in_place), finishSeek_goesOn (started.delay.trans no_delay),
    started.landed_eq] at run
  refine ⟨?seek, ?format, fun not_seek not_format => ?other⟩
  case seek =>
    rintro rfl
    rw [postSeek_seek command] at run
    exact ⟨_, run, complete_endsWith_of_flagless (flagOf_of_command command rfl)⟩
  case format =>
    rintro rfl
    rw [run, postSeek_format command]
  case other =>
    rw [run, postSeek_other (by rw [command]; exact mt Option.some.inj not_seek)
      (by rw [command]; exact mt Option.some.inj not_format)]

end Sys2Proof.Machine
end

section
/-! PROOFS. The reset (70_reset_and_hazards.md R450, R451, R453), the drive input port (10_state.md R46), and how a
command's completion leaves the controller (60_exceptions.md R411 to R414). -/

namespace Sys2Proof.Machine

/-! ## Power-on -/

/-- Settles O15: each element, read off the state. -/
theorem powerOnIsAsStated : Obligations.PowerOnIsAsStated := by
  refine ⟨rfl, rfl, rfl, rfl, rfl, rfl, rfl, rfl, rfl, rfl, rfl, rfl, rfl, rfl, rfl, rfl, rfl, rfl, rfl, fun n => ?_⟩
  cases n <;> exact ⟨rfl, rfl, rfl, rfl⟩

theorem reset_drive (n : DriveId) : State.reset.drive n = Drive.powerOn := by cases n <;> rfl

theorem reset_disc (n : DriveId) : State.reset.disc n = none := by
  rw [State.disc, reset_drive]
  rfl

theorem reset_sequenceInv : State.reset.SequenceInv where
  busy_iff := rfl
  line_follows := rfl
  no_step_line := rfl
  timer_iff := rfl
  cont_matches := rfl
  gate_on writes := nomatch writes
  selected running := nomatch running
  params_missing collecting := nomatch collecting

theorem reset_phaseInv : State.reset.PhaseInv where
  fits := rfl
  latched _ _ completing := nomatch completing
  request_runs request := nomatch request

theorem reset_linesInv : State.reset.LinesInv where
  spins n := by
    rw [reset_drive]
    cases n <;> rfl
  side_follows n _ current := nomatch current

theorem reset_discInv : State.reset.DiscInv where
  discs_ok _ member := nomatch member
  references n k holds := by
    rw [reset_drive] at holds
    exact nomatch holds

theorem reset_flushInv : State.reset.FlushInv where
  under_head n d holds := by
    rw [reset_disc] at holds
    exact nomatch holds
  not_shared _ holds := nomatch holds

theorem reset_timeInv : State.reset.TimeInv :=
  ⟨fun _ armed => (nomatch armed), fun n _ armed => by
    rw [reset_drive] at armed
    exact nomatch armed⟩

/-- The drawn sector size is one of the eight there are (log entry 4). -/
theorem drawnOperands_size (k : Nat) : ∃ j, j ≤ 7 ∧ (drawnOperands k).size = 128 * 2 ^ j := by
  refine ⟨(Config.drawByte (k + 2)).toNat % 8, by omega, ?_⟩
  show 128 <<< ((Config.drawByte (k + 2)).toNat % 8) = _
  rw [Nat.shiftLeft_eq]

theorem drawnOperands_count (k : Nat) : (drawnOperands k).count ≤ 255 :=
  Nat.le_of_lt_succ (Config.drawByte (k + 3)).isLt

theorem drawnSeek_steps (k : Nat) : (drawnSeek k).steps ≤ 255 := Nat.le_of_lt_succ (Config.drawByte (k + 3)).isLt

theorem drawnCapture_idb (size k : Nat) : (drawnCapture size k).idb.length ≤ 6 := List.length_take_le _ _

theorem reset_rangeInv : State.reset.RangeInv where
  params_range := by decide
  slots_range _ := ⟨Nat.zero_le _, fun field => absurd field (by decide),
    fun search => (nomatch search), fun skip => (nomatch skip)⟩
  size_range := drawnOperands_size _
  count_range := drawnOperands_count _
  steps_range _ := drawnSeek_steps _
  id_range := ⟨drawnCapture_idb _ _, fun field => (nomatch field)⟩
  data_range field := nomatch field
  fifo_short := Nat.zero_le _
  unload_range _ countdown := nomatch countdown
  phys_range tracks n := by
    rw [reset_drive]
    exact tracks

/-- Settles O60: each invariant on its own. -/
theorem resetMeetsTheInvariants : Obligations.ResetMeetsTheInvariants :=
  ⟨reset_sequenceInv, reset_phaseInv, reset_linesInv, reset_discInv, reset_flushInv, reset_timeInv, reset_rangeInv, rfl⟩

/-! ## The reset register -/

/-- No drive is selected at reset: both stop where they are, and no disc is flushed (43_command_protocol.md R207). -/
theorem setDriveOut_zero_drive (s : State) (n : DriveId) :
    (setDriveOut 0 s).drive n = if present s.cfg n = true then (s.drive n).withRotation none else s.drive n := by
  have unselected : selected 0 ≠ some n := by cases n <;> decide
  rw [setDriveOut_drive, if_neg unselected]

theorem setDriveOut_zero_discs (s : State) : (setDriveOut 0 s).discs = s.discs :=
  setDriveOut_discs_kept 0 s fun n current => absurd current (by cases n <;> decide)

theorem setDriveOut_zero_nextSeq (s : State) : (setDriveOut 0 s).nextSeq = s.nextSeq := by
  rw [setDriveOut_nextSeq]
  exact if_neg (by simp [startsOne])

theorem setDriveOut_zero_unload (s : State) : (setDriveOut 0 s).unload = none := by
  rw [setDriveOut_unload]
  exact if_pos (.inr rfl)

/-- `setDriveOut_frame` for the port cleared, with the values it leaves. -/
theorem setDriveOut_zero (s : State) :
    setDriveOut 0 s
      = { s with
          driveOut := 0x00, unload := none
          drive0 := (setDriveOut 0 s).drive0, drive1 := (setDriveOut 0 s).drive1 } := by
  have discs := setDriveOut_zero_discs s
  have next_seq := setDriveOut_zero_nextSeq s
  have unload := setDriveOut_zero_unload s
  obtain ⟨ds, d0, d1, k, u, written⟩ := setDriveOut_frame 0 s
  rw [written] at discs next_seq unload ⊢
  obtain rfl : ds = s.discs := discs
  obtain rfl : k = s.nextSeq := next_seq
  obtain rfl : u = none := unload
  rfl

/-- Settles O14: the port is cleared, which stops both drives, and every other element is written by name. -/
theorem resetRegisterResets : Obligations.ResetRegisterResets := by
  refine ⟨fun v s clear => if_neg (by rw [clear]; decide), fun v s set => ⟨resetController s, if_pos set, ?rest, ?drives⟩⟩
  case rest =>
    unfold resetController
    dsimp only
    rw [setDriveOut_zero]
    rfl
  case drives =>
    intro n
    unfold resetController
    dsimp only
    rw [setIrq_drive, setDriveOut_zero_drive]
    cases n <;> rfl

/-! ## The input port -/

theorem curSignal_of_current {s : State} {n : DriveId} (current : s.cur = some n) (there : present s.cfg n = true)
    (f : DriveId → Bool) : s.curSignal f = f n := by
  rw [State.curSignal, current]
  dsimp only
  rw [there, Bool.true_and]

theorem curSignal_of_absent {s : State} (absent : ∀ n, s.cur = some n → present s.cfg n = false)
    (f : DriveId → Bool) : s.curSignal f = false := by
  unfold State.curSignal
  split
  · rfl
  · next n current => rw [absent n current, Bool.false_and]

/-- Every bit of the drive input port (10_state.md R46). -/
theorem State.getLsbD_driveIn (s : State) (j : Nat) :
    s.driveIn.getLsbD j
      = (s.ready .d1 && decide (j = 6) || s.curSignal s.index && decide (j = 4)
        || s.curSignal s.protectedDisc && decide (j = 3) || s.ready .d0 && decide (j = 2)
        || (s.curSignal fun n => (s.drive n).track0) && decide (j = 1)) := by
  have flag_in_byte (i : Nat) (bit : i < 8) : (j < 8 ∧ j = i) ↔ j = i := by omega
  simp only [State.driveIn, BitVec.getLsbD_or, getLsbD_flagBit, flag_in_byte 6 (by decide), flag_in_byte 4 (by decide),
    flag_in_byte 3 (by decide), flag_in_byte 2 (by decide), flag_in_byte 1 (by decide)]

/-- Settles O17: the bits are `State.getLsbD_driveIn`, the signals those of the current drive, if it is there. -/
theorem inputPortShowsTheDrive : Obligations.InputPortShowsTheDrive := by
  intro s
  simp only [State.getLsbD_driveIn]
  refine ⟨?_, ?_, by simp, by simp, by simp, fun n current there => ?_, fun absent => ?_⟩
  · simp [State.ready, present, State.drive, Drive.spinning]
  · simp [State.ready, present, State.drive, Drive.spinning]
  · simp [curSignal_of_current current there, State.index, State.protectedDisc, Drive.track0]
  · simp [curSignal_of_absent absent]

/-! ## Completion -/

/-- The status byte of an idle controller with a result and its interrupt (10_state.md R45). -/
theorem status_of_result {s : State} (idle : s.busy = false) (full : s.resultFull = true) (irq : s.irq = true)
    (drq : s.drq = false) : s.status = 0x18 := by
  unfold State.status
  rw [idle, full, irq, drq]
  rfl

theorem latch_status (code : Byte) (s : State) : (latch code s).status = 0x18 :=
  status_of_result (latch_busy code s) (latch_resultFull code s) (latch_irq code s) (latch_drq code s)

theorem clearLines_writeGateLine_headLoaded (s : State) : (clearLines writeGateLine s).headLoaded = s.headLoaded :=
  (setDriveOut_headLoaded _ s).trans (getLsbD_clear s.driveOut writeGateLine 3 (by decide) (by decide))

/-- The machine a command leaves when its result is latched at once, as the unloading begins in it. -/
theorem complete_now_unloads (code : Byte) {s : State} (now : s.cfg.completionDelay = 0) :
    ∃ u, complete code s = startUnload u ∧ u.regs = s.regs ∧ u.headLoaded = s.headLoaded := by
  refine ⟨_, complete_now code s now, ?_, ?_⟩
  · exact setDriveOut_regs _ s
  · exact clearLines_writeGateLine_headLoaded s

/-- Settles O48: `complete_endsWith` and `latch_latched`, with the three ways a head unloads. -/
theorem completionLatchesTheResult : Obligations.CompletionLatchesTheResult := by
  refine ⟨fun code s => ⟨complete_endsWith code s, fun now => ⟨?status, fun never => ?never, fun at_once => ?at_once,
    fun not_never not_at_once => ?later⟩⟩,
    fun code s waits => ⟨latch code s, ?_, latch_latched code s, latch_status code s⟩⟩
  case status =>
    rw [complete_now code s now]
    exact latch_status _ _
  case never =>
    obtain ⟨u, ended, regs, head⟩ := complete_now_unloads code now
    rw [ended, startUnload_never (by rw [regs]; exact never)]
    exact ⟨rfl, head⟩
  case at_once =>
    obtain ⟨u, ended, regs, head⟩ := complete_now_unloads code now
    have line_down : (u.driveOut &&& ~~~loadHeadLine).getLsbD 3 = false := by simp [loadHeadLine]
    rw [ended, startUnload_atOnce (by rw [regs]; exact at_once)]
    refine ⟨?_, (setDriveOut_headLoaded _ u).trans line_down⟩
    show (setDriveOut _ u).unload = none
    rw [setDriveOut_unload]
    exact if_pos (.inr line_down)
  case later =>
    obtain ⟨u, ended, regs, head⟩ := complete_now_unloads code now
    rw [ended, startUnload_later (by rw [regs]; exact not_never) (by rw [regs]; exact not_at_once), ← regs]
    exact ⟨rfl, head⟩
  · unfold onTimer
    rw [waits]

end Sys2Proof.Machine
end

section
/-! PROOFS. The fields as they are read: slots into bytes, the bytes of an ID and of a data field, and what the end of
each field decides (45_bitstream.md R273 to R285, 46_read_commands.md R304 to R306). -/

namespace Sys2Proof.Machine

/-! ## A word, slot by slot -/

theorem getLsbD_shiftIn (w : Slots) (b : Bool) {j : Nat} (slot : j < 32) :
    (shiftIn w b).getLsbD j = if j = 0 then b else w.getLsbD (j - 1) := by
  unfold shiftIn
  rw [BitVec.getLsbD_or, BitVec.getLsbD_shiftLeft]
  by_cases first : j = 0
  · simp [first]
  · simp [first, slot, show ¬ j < 1 by omega]

theorem slotsOf_succ (w : Slots) (n : Nat) : slotsOf w (n + 1) = w.getLsbD n :: slotsOf w n := by
  rw [slotsOf, slotsOf, List.range_succ, List.reverse_append, List.reverse_singleton, List.singleton_append, List.map_cons]

/-- Shifting in the `n` slots of a chunk leaves them in the `n` low bits, and moves what was there up. -/
theorem getLsbD_foldl_shiftIn (w : Slots) (n : Nat) (sr : Slots) {j : Nat} (slot : j < 32) :
    ((slotsOf w n).foldl shiftIn sr).getLsbD j = if j < n then w.getLsbD j else sr.getLsbD (j - n) := by
  induction n generalizing sr with
  | zero => rfl
  | succ n ih =>
    rw [slotsOf_succ, List.foldl_cons, ih]
    rcases Nat.lt_trichotomy j n with low | rfl | high
    · rw [if_pos low, if_pos (by omega)]
    · rw [if_neg (Nat.lt_irrefl j), if_pos (by omega), Nat.sub_self, getLsbD_shiftIn _ _ (by omega), if_pos rfl]
    · rw [if_neg (by omega), if_neg (by omega), getLsbD_shiftIn _ _ (by omega), if_neg (by omega), Nat.sub_sub]

/-- The 32 slots of a word, shifted in one after another, are the word. -/
theorem foldl_shiftIn_slotsOf (w sr : Slots) : (slotsOf w 32).foldl shiftIn sr = w :=
  BitVec.eq_of_getLsbD_eq fun _ slot => (getLsbD_foldl_shiftIn w 32 sr slot).trans (if_pos slot)

/-! ## The slots of a field -/

theorem onSlot_inId {s : State} (field : s.fsm = .inId) (b : Bool) :
    onSlot s b = inIdSlot { s with sr := shiftIn s.sr b } := by
  simp [onSlot, field]

theorem onSlot_inData {s : State} (field : s.fsm = .inData) (b : Bool) :
    onSlot s b = inDataSlot { s with sr := shiftIn s.sr b } := by
  simp [onSlot, field]

/-- The first 31 slots of a byte are shifted in and counted. -/
theorem onSlot_field_counts {s : State} (field : s.fsm = .inId ∨ s.fsm = .inData) (inside : s.nbits + 1 < 32) (b : Bool) :
    onSlot s b = { s with sr := shiftIn s.sr b, nbits := s.nbits + 1 } := by
  rcases field with id | data
  · rw [onSlot_inId id]
    exact if_pos inside
  · rw [onSlot_inData data]
    exact if_pos inside

/-- The last slot of a byte has been shifted in: the clock is checked, and the count of slots begins again. -/
theorem noteClock_eq (s : State) :
    noteClock s = { s with nbits := 0, cap := { s.cap with clkErr := s.cap.clkErr || (fmDecode s.sr).1 != 0xFF } } := rfl

theorem onSlot_inId_byte {s : State} (field : s.fsm = .inId) (last : 32 ≤ s.nbits + 1) (b : Bool) :
    onSlot s b = idByte (fmDecode (shiftIn s.sr b)).2.1 (noteClock { s with sr := shiftIn s.sr b }) := by
  rw [onSlot_inId field]
  exact if_neg (Nat.not_lt.mpr last)

theorem onSlot_inData_byte {s : State} (field : s.fsm = .inData) (last : 32 ≤ s.nbits + 1) (b : Bool) :
    onSlot s b = dataByte (fmDecode (shiftIn s.sr b)).2.1 (noteClock { s with sr := shiftIn s.sr b }) := by
  rw [onSlot_inData field]
  exact if_neg (Nat.not_lt.mpr last)

theorem foldl_onSlot_counts (bs : List Bool) {s : State} (field : s.fsm = .inId ∨ s.fsm = .inData)
    (inside : s.nbits + bs.length < 32) :
    bs.foldl onSlot s = { s with sr := bs.foldl shiftIn s.sr, nbits := s.nbits + bs.length } := by
  induction bs generalizing s with
  | nil => rfl
  | cons b bs ih =>
    rw [List.length_cons] at inside
    rw [List.foldl_cons, onSlot_field_counts field (by omega), ih (by exact field) (by dsimp only; omega)]
    simp [Nat.add_assoc, Nat.add_comm 1]

/-- A chunk from a byte boundary: 31 slots counted, and the last one. -/
theorem onSlots_field (w : Slots) {s : State} (field : s.fsm = .inId ∨ s.fsm = .inData) (boundary : s.nbits = 0) :
    ∃ v b, onSlots w 32 s = onSlot { s with sr := v, nbits := 31 } b ∧ shiftIn v b = w := by
  obtain ⟨bs, b, split⟩ : ∃ bs b, slotsOf w 32 = bs ++ [b] := ⟨_, _, (List.dropLast_append_getLast
    (List.ne_nil_of_length_pos (by rw [slotsOf_length]; decide))).symm⟩
  have length : bs.length = 31 := by
    have total := congrArg List.length split
    rw [slotsOf_length, List.length_append, List.length_singleton] at total
    omega
  refine ⟨bs.foldl shiftIn s.sr, b, ?_, ?_⟩
  · rw [onSlots, split, List.foldl_append, foldl_onSlot_counts bs field (by omega), boundary, length]
    rfl
  · rw [← foldl_shiftIn_slotsOf w s.sr, split, List.foldl_append]
    rfl

/-- Settles O39: a slot counted, or the last of a byte; a chunk is 31 of the former and one of the latter. -/
theorem fieldSlotsMakeBytes : Obligations.FieldSlotsMakeBytes := by
  refine ⟨fun s b w shifted => ?slot, fun c d s boundary => ⟨fun id => ?idChunk, fun data => ?dataChunk⟩⟩
  case slot =>
    obtain rfl : w = shiftIn s.sr b := shifted.trans (shiftIn_eq s.sr b).symm
    refine ⟨fun field inside => onSlot_field_counts field inside b, ?_⟩
    rintro last u rfl
    exact ⟨fun id => onSlot_inId_byte id last b, fun data => onSlot_inData_byte data last b⟩
  case idChunk =>
    obtain ⟨v, b, chunk, word⟩ := onSlots_field (fmEncode c d) (.inl id) boundary
    rw [chunk, onSlot_inId_byte (by exact id) (Nat.le_refl 32), noteClock_eq, word, fmDecode, fmData_fmEncode,
      fmClock_fmEncode, boundary]
  case dataChunk =>
    obtain ⟨v, b, chunk, word⟩ := onSlots_field (fmEncode c d) (.inr data) boundary
    rw [chunk, onSlot_inData_byte (by exact data) (Nat.le_refl 32), noteClock_eq, word, fmDecode, fmData_fmEncode,
      fmClock_fmEncode, boundary]

/-! ## The bytes of a data field -/

theorem dataByte_sector {s : State} (inside : s.cap.nbytes < s.op.size) (d : Byte) :
    dataByte d s = sectorByte d { s with cap := { s.cap with nbytes := s.cap.nbytes + 1 } } := if_pos inside

theorem dataByte_crc {s : State} (past : s.op.size ≤ s.cap.nbytes) (d : Byte) :
    dataByte d s =
      if s.cap.nbytes = s.op.size + 1 then
        endData { s with cap := { s.cap with nbytes := s.cap.nbytes + 1, crcb := s.cap.crcb ++ [d] } }
      else { s with cap := { s.cap with nbytes := s.cap.nbytes + 1, crcb := s.cap.crcb ++ [d] } } := by
  have outside : ¬ s.cap.nbytes + 1 ≤ s.op.size := by omega
  refine (if_neg outside).trans ?_
  by_cases second : s.cap.nbytes = s.op.size + 1
  · rw [if_pos second]
    exact if_pos (congrArg (· + 1) second)
  · rw [if_neg second]
    exact if_neg fun same => second (Nat.succ.inj same)

theorem sectorByte_late {s : State} (transfer : s.isTransfer = true) (late : s.drq = true) (d : Byte) :
    sectorByte d s = complete 0x0A { s with cap := { s.cap with crc := crcByte s.cap.crc d } } :=
  (if_pos transfer).trans (if_pos late)

theorem sectorByte_offered {s : State} (transfer : s.isTransfer = true) (served : s.drq = false) (d : Byte) :
    sectorByte d s = offer d { s with cap := { s.cap with crc := crcByte s.cap.crc d } } :=
  (if_pos transfer).trans (if_neg (ne_true_of_eq_false served))

theorem sectorByte_verified {s : State} (verify : s.isTransfer = false) (d : Byte) :
    sectorByte d s = { s with cap := { s.cap with crc := crcByte s.cap.crc d } } :=
  if_neg (ne_true_of_eq_false verify)

/-! ## The bytes of an ID field -/

theorem idByte_header {s : State} (header : s.cap.idb.length < 4) (d : Byte) :
    idByte d s =
      if s.command = some .readId then
        if s.drq = true then
          complete 0x0A { s with cap := { s.cap with idb := s.cap.idb ++ [d], crc := crcByte s.cap.crc d } }
        else offer d { s with cap := { s.cap with idb := s.cap.idb ++ [d], crc := crcByte s.cap.crc d } }
      else { s with cap := { s.cap with idb := s.cap.idb ++ [d], crc := crcByte s.cap.crc d } } :=
  if_pos (by rw [List.length_append]; exact header)

theorem idByte_crc {s : State} (past : 4 ≤ s.cap.idb.length) (d : Byte) :
    idByte d s =
      if s.cap.idb.length = 5 then endId { s with cap := { s.cap with idb := s.cap.idb ++ [d] } }
      else { s with cap := { s.cap with idb := s.cap.idb ++ [d] } } := by
  have length : (s.cap.idb ++ [d]).length = s.cap.idb.length + 1 := List.length_append
  refine (if_neg (by rw [length]; omega)).trans ?_
  by_cases second : s.cap.idb.length = 5
  · rw [if_pos second]
    exact if_pos (by rw [length, second])
  · rw [if_neg second]
    exact if_neg (by rw [length]; omega)

/-- Settles O40: the cases of a byte of each field. -/
theorem bytesAreOfferedOrLate : Obligations.BytesAreOfferedOrLate := by
  refine ⟨fun d s inside => ?sector, fun d s => ?dataCrc, fun d s header => ?header, fun d s => ?idCrc⟩
  case sector =>
    rintro u rfl
    rw [dataByte_sector inside]
    refine ⟨fun transfer late => ?_, fun transfer served => ?_, fun verify => ?_⟩
    · rw [sectorByte_late (by exact transfer) (by exact late)]
      exact complete_endsWith 0x0A _
    · rw [sectorByte_offered (by exact transfer) (by exact served)]
      rfl
    · rw [sectorByte_verified (by exact verify)]
  case dataCrc =>
    rintro u rfl
    refine ⟨fun first => ?_, fun second => ?_⟩
    · rw [dataByte_crc (by omega), if_neg (by omega)]
    · rw [dataByte_crc (by omega), if_pos second]
  case header =>
    rintro u rfl
    rw [idByte_header header]
    refine ⟨fun readId late => ?_, fun readId served => ?_, fun other => if_neg other⟩
    · rw [if_pos readId, if_pos late]
      exact complete_endsWith_of_flagless (flagOf_of_command (by exact readId) rfl)
    · rw [if_pos readId, if_neg (ne_true_of_eq_false served)]
      rfl
  case idCrc =>
    rintro u rfl
    refine ⟨fun fifth => ?_, fun sixth => ?_⟩
    · rw [idByte_crc (by omega), if_neg (by omega)]
    · rw [idByte_crc (by omega), if_pos sixth]

/-! ## The end of an ID field -/

theorem idGood_eq_decide (c : Capture) : idGood c = decide (c.crc = c.idb.getD 4 0 ++ c.idb.getD 5 0) := by
  rw [Bool.eq_iff_iff, idGood_iff, decide_eq_true_iff]

theorem dataGood_eq_decide (c : Capture) : dataGood c = decide (c.crc = c.crcb.getD 0 0 ++ c.crcb.getD 1 0) := by
  rw [Bool.eq_iff_iff, dataGood_iff, decide_eq_true_iff]

theorem idMatches_eq_decide (s : State) :
    idMatches s
      = (decide (s.cap.idb.getD 0 0 = s.op.reqTrack) && decide (s.cap.idb.getD 2 0 = s.op.sector)) := by
  unfold idMatches
  rw [beq_eq_decide, beq_eq_decide]

theorem endId_readId {s : State} (readId : s.command = some .readId) : endId s = endReadId s := if_pos readId

theorem endId_sought {s : State} (other : s.command ≠ some .readId) : endId s = endSoughtId s := if_neg other

/-- Settles O41: the branches of `endReadId` and `endSoughtId`. -/
theorem idFieldEnds : Obligations.IdFieldEnds := by
  rintro s good hit good_is hit_is
  rw [← idGood_eq_decide] at good_is
  rw [← idMatches_eq_decide] at hit_is
  subst good_is hit_is
  refine ⟨fun readId => ?readId, fun other => ?sought⟩
  case readId =>
    rw [endId_readId readId]
    unfold endReadId
    have ends (code : Byte) : EndsWith code s (complete code s) :=
      complete_endsWith_of_flagless (flagOf_of_command readId rfl)
    refine ⟨fun late => ?_, fun served clock => ?_, fun served clock bad => ?_, fun served clock fine => ?_⟩
    · rw [if_pos late]
      exact ends 0x0A
    · rw [if_neg (ne_true_of_eq_false served), if_pos clock]
      exact ends 0x08
    · rw [if_neg (ne_true_of_eq_false served), if_neg (ne_true_of_eq_false clock), if_pos (by rw [bad]; rfl)]
      exact ends 0x0C
    · rintro u rfl
      rw [if_neg (ne_true_of_eq_false served), if_neg (ne_true_of_eq_false clock), if_neg (by rw [fine]; decide)]
      refine ⟨fun last => ?_, fun more => if_neg more⟩
      rw [if_pos last]
      exact complete_endsWith_of_flagless (flagOf_of_command (by exact readId) rfl)
  case sought =>
    rw [endId_sought other]
    unfold endSoughtId
    refine ⟨fun clock => ?_, fun clock bad matters => ?_, fun clock harmless misses => ?_, fun clock fine hits write => ?_,
      fun clock fine hits read => ?_⟩
    · rw [if_pos clock]
      exact research_passedOver s
    · rw [if_neg (ne_true_of_eq_false clock), if_pos (by rw [bad]; simpa using matters)]
      exact complete_endsWith 0x0C s
    · rw [if_neg (ne_true_of_eq_false clock), if_neg (by rcases harmless with fine | never <;> simp [*]),
        if_pos (by rw [misses]; rfl)]
      exact research_passedOver s
    · rw [if_neg (ne_true_of_eq_false clock), if_neg (by simp [fine]), if_neg (by rw [hits]; decide), if_pos write]
    · rw [if_neg (ne_true_of_eq_false clock), if_neg (by simp [fine]), if_neg (by rw [hits]; decide),
        if_neg (ne_true_of_eq_false read)]

/-! ## The end of a data field -/

theorem stopsAtDeleted_iff (s : State) :
    stopsAtDeleted s = true ↔ s.command = some .read128 ∨ s.command = some .readVar := by
  simp [stopsAtDeleted]

theorem nextSector_last {s : State} (last : s.op.count - 1 = 0) :
    nextSector s = complete 0x00 { s with op := { s.op with count := s.op.count - 1 } } := if_pos last

theorem nextSector_more {s : State} (more : s.op.count - 1 ≠ 0) :
    nextSector s
      = { s with
          op := { s.op with count := s.op.count - 1, sector := s.op.sector + 1 }
          fsm := .searchId, sr := 0, indexCount := 0 } := if_neg more

/-- Settles O42: the branches of `endData`, the last one `nextSector`'s. -/
theorem dataFieldEnds : Obligations.DataFieldEnds := by
  rintro s u rfl good good_is
  rw [← dataGood_eq_decide] at good_is
  subst good_is
  unfold endData
  refine ⟨fun late => ?_, fun served clock => ?_, fun served clock bad => ?_, fun served clock fine => ⟨?stops, ?next⟩⟩
  · rw [if_pos (by exact late)]
    exact complete_endsWith 0x0A _
  · rw [if_neg (ne_true_of_eq_false (by exact served)), if_pos (by exact clock)]
    exact complete_endsWith 0x08 _
  · rw [if_neg (ne_true_of_eq_false (by exact served)), if_neg (ne_true_of_eq_false (by exact clock)),
      if_pos (by exact (congrArg (! ·) bad))]
    exact complete_endsWith 0x0E _
  all_goals
    rw [if_neg (ne_true_of_eq_false (by exact served)), if_neg (ne_true_of_eq_false (by exact clock)),
      if_neg (ne_true_of_eq_false (by exact (congrArg (! ·) fine)))]
  case stops =>
    intro deleted command
    rw [if_pos (by exact Bool.and_eq_true_iff.mpr ⟨deleted, (stopsAtDeleted_iff s).mpr command⟩)]
    exact complete_endsWith 0x00 _
  case next =>
    rintro goes_on v rfl
    have not_stopped : ¬ (s.cap.deleted && stopsAtDeleted s) = true := by
      rw [Bool.and_eq_true_iff, stopsAtDeleted_iff]
      rintro ⟨deleted, command⟩
      rcases goes_on with kept | ⟨not_128, not_var⟩
      · exact absurd deleted (by rw [kept]; decide)
      · exact command.elim not_128 not_var
    rw [if_neg (by exact not_stopped)]
    refine ⟨fun last => ?_, fun more => ?_⟩
    · rw [nextSector_last (by exact last)]
      exact complete_endsWith 0x00 _
    · rw [nextSector_more (by exact more)]

end Sys2Proof.Machine
end

section
/-! PROOFS. The layouts a write and a format record (47_write_commands.md R344, R361, R362), what an index edge and a
chunk do (45_bitstream.md R271, R272), and the drive's rotation (40_environment.md R131, R132). -/

namespace Sys2Proof.Machine

/-! ## Starting to record -/

theorem raiseLines_writeGateLine_writeGate (s : State) : (raiseLines writeGateLine s).writeGate = true := by
  rw [raiseLines, setDriveOut_writeGate, BitVec.getLsbD_or]
  exact Bool.or_true _

theorem startWrite_writeGate (s : State) : (startWrite s).writeGate = true := raiseLines_writeGateLine_writeGate _

theorem startWrite_fsm (s : State) : (startWrite s).fsm = .writeData := setDriveOut_fsm _ _

theorem startWrite_wr (s : State) :
    (startWrite s).wr = { s.wr with
      wseq := dataSequence (writeMark s.command) s.op.size, fifo := [], hostLeft := s.op.size, fmtDone := false } :=
  setDriveOut_wr _ _

theorem startFormat_writeGate (s : State) : (startFormat s).writeGate = true := raiseLines_writeGateLine_writeGate _

theorem startFormat_fsm (s : State) : (startFormat s).fsm = .formatWrite := setDriveOut_fsm _ _

theorem startFormat_wr (s : State) :
    (startFormat s).wr = { s.wr with
      wseq := formatSequence s.op, fifo := [], hostLeft := 4 * s.op.count, fmtDone := false } :=
  setDriveOut_wr _ _

/-! ## The layouts -/

theorem dataSequence_length (m : Byte) (size : Nat) : (dataSequence m size).length = size + 10 := by
  simp [dataSequence, literals]

theorem formatSector_length (size gap3 : Nat) :
    (formatSector size gap3).length = 7 + 17 + (size + 3) + (gap3 + 6) := by
  simp [formatSector, literals]
  omega

theorem formatSequence_length (o : Operands) :
    (formatSequence o).length
      = o.gap1.toNat + 6 + o.count * (7 + 17 + (o.size + 3) + (o.gap3.toNat + 6)) + 1 := by
  simp only [formatSequence, literals, List.length_append, List.length_replicate, List.length_flatten, List.map_replicate,
    List.sum_replicate, formatSector_length, List.length_singleton, smul_eq_mul]

/-- An item that is neither a gap or sync byte nor the last gap stands only in the sectors of a format. -/
theorem formatSequence_count (o : Operands) {it : WriteItem} (no_literal : ∀ c d, it ≠ .lit c d) (no_gap : it ≠ .gap4) :
    (formatSequence o).count it = o.count * (formatSector o.size o.gap3.toNat).count it := by
  have literal_ne (c d : Byte) : (WriteItem.lit c d == it) = false := beq_false_of_ne (no_literal c d).symm
  have gap_ne : (WriteItem.gap4 == it) = false := beq_false_of_ne no_gap.symm
  simp [formatSequence, literals, List.count_append, List.count_replicate, List.count_flatten, List.count_cons,
    literal_ne, gap_ne]

theorem formatSector_count_host (size gap3 : Nat) : (formatSector size gap3).count .host = 4 := by
  simp [formatSector, literals, List.count_append, List.count_replicate]

theorem formatSector_count_idMark (size gap3 : Nat) : (formatSector size gap3).count (.mark 0xFE) = 1 := by
  simp [formatSector, literals, idMark, dataMark, List.count_append, List.count_replicate]

theorem formatSector_count_dataMark (size gap3 : Nat) : (formatSector size gap3).count (.mark 0xFB) = 1 := by
  simp [formatSector, literals, idMark, dataMark, List.count_append, List.count_replicate]

theorem formatSector_count_fill (size gap3 : Nat) : (formatSector size gap3).count (.fill 0xE5) = size := by
  simp [formatSector, literals, List.count_append, List.count_replicate]

/-- Settles O46: the two starts, and the lengths and counts of the two sequences. -/
theorem recordedLayoutIsAsStated : Obligations.RecordedLayoutIsAsStated := by
  refine ⟨fun s => ⟨_, rfl, ?write⟩, fun s => ⟨_, rfl, ?format⟩, fun o sector => ?layout⟩
  case write =>
    rw [startWrite_wr]
    exact ⟨startWrite_fsm s, startWrite_writeGate s, rfl, rfl, rfl, rfl, rfl, dataSequence_length _ _, rfl⟩
  case format =>
    rw [startFormat_wr]
    exact ⟨startFormat_fsm s, startFormat_writeGate s, rfl, rfl, rfl, rfl, rfl, rfl⟩
  case layout =>
    rintro rfl
    refine ⟨rfl, formatSequence_length o, ?_, ?_, ?_, ?_⟩
    · rw [formatSequence_count o (it := .host) nofun nofun, formatSector_count_host, Nat.mul_comm]
    · rw [formatSequence_count o (it := .mark 0xFE) nofun nofun, formatSector_count_idMark, Nat.mul_one]
    · rw [formatSequence_count o (it := .mark 0xFB) nofun nofun, formatSector_count_dataMark, Nat.mul_one]
    · rw [formatSequence_count o (it := .fill 0xE5) nofun nofun, formatSector_count_fill]

/-! ## Index edges -/

theorem onIndexEdge_unloads {s : State} (none_runs : s.fsm = .idle ∨ s.fsm = .params) :
    onIndexEdge s = countUnload s := by
  unfold onIndexEdge
  rcases none_runs with idle | collecting
  · rw [idle]
  · rw [collecting]

theorem onIndexEdge_searchId {s : State} (searching : s.fsm = .searchId) :
    onIndexEdge s =
      if s.cfg.idSearchLimit ≤ s.indexCount + 1 then complete 0x18 (countIndex s) else countIndex s := by
  unfold onIndexEdge
  rw [searching]
  rfl

theorem onIndexEdge_counts {s : State} (reading : s.fsm = .inId ∨ s.fsm = .searchData) :
    onIndexEdge s = countIndex s := by
  unfold onIndexEdge
  rcases reading with id | search
  · rw [id]
  · rw [search]

theorem onIndexEdge_formatWaitIndex {s : State} (waiting : s.fsm = .formatWaitIndex) :
    onIndexEdge s = startFormat s := by
  unfold onIndexEdge
  rw [waiting]

theorem onIndexEdge_formatWrite {s : State} (writing : s.fsm = .formatWrite) :
    onIndexEdge s = if s.wr.fmtDone = true then complete 0x00 s else s := by
  unfold onIndexEdge
  rw [writing]

theorem onIndexEdge_ignored {s : State}
    (other : s.fsm = .seekStep ∨ s.fsm = .seekSettle ∨ s.fsm = .inData ∨ s.fsm = .writeSkipGap2 ∨ s.fsm = .writeData
      ∨ s.fsm = .completing) : onIndexEdge s = s := by
  unfold onIndexEdge
  rcases other with h | h | h | h | h | h <;> rw [h]

theorem countUnload_none {s : State} (no_countdown : s.unload = none) : countUnload s = s := by
  rw [countUnload, no_countdown]

theorem countUnload_more {s : State} {k : Nat} (counting : s.unload = some (k + 2)) :
    countUnload s = { s with unload := some (k + 1) } := by
  rw [countUnload, counting]
  rfl

theorem countUnload_last {s : State} (counting : s.unload = some 1) :
    countUnload s = clearLines loadHeadLine { s with unload := none } := by
  rw [countUnload, counting]
  rfl

/-- Settles O43: one lemma about `onIndexEdge` for each class of FSM states. -/
theorem indexEdgesCount : Obligations.IndexEdgesCount := by
  intro s
  refine ⟨fun none_runs => ?unload, fun searching => ?search, onIndexEdge_counts, fun waiting => ?format,
    fun writing => ?last, onIndexEdge_ignored⟩
  case unload =>
    rw [onIndexEdge_unloads none_runs]
    refine ⟨countUnload_none, fun k => countUnload_more, fun counting => ⟨_, rfl, ?_⟩⟩
    rw [countUnload_last counting]
    exact setDriveOut_written _ _
  case search =>
    rintro u rfl
    rw [onIndexEdge_searchId searching]
    refine ⟨fun reached => ?_, fun below => if_neg (Nat.not_le.mpr below)⟩
    rw [if_pos reached]
    exact complete_endsWith 0x18 _
  case format =>
    rw [onIndexEdge_formatWaitIndex waiting, startFormat_wr]
    exact ⟨startFormat_fsm s, rfl, rfl, startFormat_writeGate s, rfl, rfl, rfl, rfl⟩
  case last =>
    rw [onIndexEdge_formatWrite writing]
    refine ⟨fun done => ?_, fun not_done => if_neg (ne_true_of_eq_false not_done)⟩
    rw [if_pos done, ← BitVec.zero_or (x := flagOf s)]
    exact complete_endsWith 0x00 s

/-! ## A chunk -/

theorem sampleIndex_eq (n : DriveId) (s : State) :
    sampleIndex n s =
      if (s.disc n).isSome = true ∧ s.index n = true ∧ s.lastIndex = false then
        onIndexEdge { s with lastIndex := s.index n }
      else { s with lastIndex := s.index n } := by
  unfold sampleIndex
  simp [Bool.and_eq_true, and_assoc]

theorem Fsm.writes_iff (f : Fsm) : f.writes = true ↔ f = .writeData ∨ f = .formatWrite := by
  cases f <;> simp [Fsm.writes]

theorem onPulses_other {n : DriveId} {s : State} (other : s.cur ≠ some n) (w : Slots) (k : Nat) :
    onPulses n w k s = .next s := if_neg other

theorem onPulses_current {n : DriveId} {s : State} (current : s.cur = some n) (w : Slots) (k : Nat) :
    onPulses n w k s =
      if (sampleIndex n s).fsm.writes = true then emit n k (sampleIndex n s)
      else .next (readChunk w k (sampleIndex n s)) := by
  simp only [Fsm.writes_iff]
  exact if_pos current

/-- A chunk in a state that reads no slots changes only the controller's own state (45_bitstream.md R273). -/
theorem onSlots_received {s : State} (not_reading : s.fsm.reads = false) (w : Slots) (k : Nat) :
    Received s (onSlots w k s) := by
  cases onSlots_slotted w k s with
  | going _ received => exact received
  | ended _ _ _ reading => exact absurd reading (ne_true_of_eq_false not_reading)

/-- Settles O37: `onPulses_current`, with the index edge that `sampleIndex` takes. -/
theorem pulsesReachTheController : Obligations.PulsesReachTheController := by
  intro n w k s
  refine ⟨fun other => onPulses_other other w k, ?chunk, fun no_disc none_runs => ?quiet⟩
  case chunk =>
    rintro current u v r rfl rfl rfl
    rw [← sampleIndex_eq, onPulses_current current]
    refine ⟨fun writes => if_pos writes, fun reads skipping done => ?_, fun reads goes_on => ?_⟩ <;>
      rw [if_neg (ne_true_of_eq_false reads)] <;> congr 1
    · exact if_pos ⟨skipping, done⟩
    · exact if_neg fun both => goes_on.elim (· both.1) (ne_true_of_eq_false · both.2)
  case quiet =>
    by_cases current : s.cur = some n
    · have sampled : sampleIndex n s = { s with lastIndex := s.index n } := by
        rw [sampleIndex_eq, if_neg (by simp [no_disc])]
      have not_writing : s.fsm.writes = false := by rcases none_runs with f | f <;> rw [f] <;> rfl
      have not_reading : s.fsm.reads = false := by rcases none_runs with f | f <;> rw [f] <;> rfl
      have received : Received { s with lastIndex := s.index n } _ := onSlots_received (by exact not_reading) w k
      have fsm : (onSlots w k { s with lastIndex := s.index n }).fsm = s.fsm := received.moves.1 not_reading
      have not_skipping : (onSlots w k { s with lastIndex := s.index n }).fsm ≠ .writeSkipGap2 := by
        rw [fsm]
        rcases none_runs with f | f <;> rw [f] <;> decide
      refine ⟨_, ?_, received.controlled.unload, received.controlled.driveOut⟩
      rw [onPulses_current current, sampled, if_neg (ne_true_of_eq_false (by exact not_writing)), readChunk,
        if_neg fun both => not_skipping both.1]
    · exact ⟨s, onPulses_other current w k, rfl, rfl⟩

/-! ## A rotation -/

theorem deliveredWord_delivers (n : DriveId) (s : State) :
    Delivers n s (deliveredWord n s).1 (deliveredWord n s).2 := by
  unfold Delivers deliveredWord
  cases holds : s.disc n with
  | none => exact ⟨fun _ _ none_there => (nomatch none_there), .inr rfl⟩
  | some disc =>
    dsimp only
    cases track : disc.track (s.drive n).side (s.drive n).phys with
    | none =>
      refine ⟨fun d trk same track_there => ?_, .inr rfl⟩
      obtain rfl := Option.some.inj same
      exact nomatch track.symm.trans track_there
    | some t =>
      dsimp only
      by_cases inside : (s.drive n).word < t.length
      · rw [if_pos inside]
        by_cases blank : t.cells.readWord (s.drive n).word = 0
        · rw [if_pos blank]
          refine ⟨fun d trk same track_there _ => ?_, .inr rfl⟩
          obtain rfl := Option.some.inj same
          obtain rfl := Option.some.inj (track.symm.trans track_there)
          refine ⟨fun recorded => absurd blank recorded, fun _ => ⟨?_, rfl⟩⟩
          have drawn : (BitVec.ofNat 32 ((Config.drawWeak s.draws).val + 1)).toNat = (Config.drawWeak s.draws).val + 1 := by
            rw [BitVec.toNat_ofNat]
            exact Nat.mod_eq_of_lt (Nat.add_lt_of_lt_sub (Config.drawWeak s.draws).isLt)
          intro zero
          have zero_drawn : (BitVec.ofNat 32 ((Config.drawWeak s.draws).val + 1)).toNat = 0 := congrArg BitVec.toNat zero
          omega
        · rw [if_neg blank]
          refine ⟨fun d trk same track_there _ => ?_, .inl rfl⟩
          obtain rfl := Option.some.inj same
          obtain rfl := Option.some.inj (track.symm.trans track_there)
          exact ⟨fun _ => ⟨rfl, rfl⟩, fun zero => absurd zero blank⟩
      · rw [if_neg inside]
        refine ⟨fun d trk same track_there outside => ?_, .inr rfl⟩
        obtain rfl := Option.some.inj same
        obtain rfl := Option.some.inj (track.symm.trans track_there)
        exact absurd outside inside

theorem Delivers.cfg {n : DriveId} {s t : State} {w : Slots} (delivers : Delivers n s w t) : t.cfg = s.cfg := by
  rcases delivers.2 with rfl | rfl <;> rfl

theorem onRotation_noWords {n : DriveId} {s : State}
    (empty : trackLen s.cfg (s.disc n) (s.drive n).side (s.drive n).phys = 0) :
    onRotation n s = .next (rearmRotation n s) := if_pos empty

theorem onRotation_word {n : DriveId} {s : State}
    (words : trackLen s.cfg (s.disc n) (s.drive n).side (s.drive n).phys ≠ 0) :
    onRotation n s =
      andThen (onPulses n (deliveredWord n s).1 32 (rearmRotation n (deliveredWord n s).2)) fun t =>
        .next (advanceHead n (trackLen s.cfg (s.disc n) (s.drive n).side (s.drive n).phys) t) := if_neg words

theorem andThen_stopped {r : Result} (stops : ∀ u, r ≠ .next u) (f : State → Result) : andThen r f = r := by
  cases r with
  | next u => exact absurd rfl (stops u)
  | fault => rfl
  | refused => rfl

/-- Settles O38: the word is `deliveredWord`'s, the move that of `advanceHead`. -/
theorem rotationDeliversAndTurns : Obligations.RotationDeliversAndTurns := by
  rintro n s len rfl
  refine ⟨onRotation_noWords, fun words => ⟨_, _, deliveredWord_delivers n s, ?_⟩⟩
  have rearmed : (deliveredWord n s).2.reschedule (.rotation n) s.cfg.pulsePeriod
      = rearmRotation n (deliveredWord n s).2 := by
    rw [rearmRotation, (deliveredWord_delivers n s).cfg]
  rw [rearmed, onRotation_word words]
  refine ⟨fun u taken => ⟨_, congrArg (andThen · _) taken, fun wraps => ?_, fun inside => ?_, fun m other => ?_, ?_⟩,
    fun stops => andThen_stopped stops _⟩
  · rw [advanceHead_drive, if_pos rfl, if_pos wraps, advanceHead_discs, if_pos wraps]
    exact ⟨rfl, rfl⟩
  · rw [advanceHead_drive, if_pos rfl, if_neg (by omega), advanceHead_discs, if_neg (by omega)]
    exact ⟨rfl, rfl⟩
  · rw [advanceHead_drive, if_neg other]
  · obtain ⟨_, _, _, turned⟩ := advanceHead_frame n (trackLen s.cfg (s.disc n) (s.drive n).side (s.drive n).phys) u
    rw [turned]

end Sys2Proof.Machine
end

section
/-! PROOFS. What records nothing (20_memory.md R63, R77): every operation but the emission of a chunk and the host's own
disc changes leaves the recorded slots, the time, the parameters and the host's queue, and keeps the flush invariant. -/

namespace Sys2Proof.Machine

/-! ## Quiet changes -/

/-- `t` is `s` after a change that records nothing, takes no time and leaves the host's queue. -/
structure Quiet (s t : State) : Prop where
  discs : SameDiscs s t
  cfg : t.cfg = s.cfg
  epoch : t.epoch = s.epoch
  host : t.host = s.host
  flush : s.FlushInv → t.FlushInv

theorem Quiet.refl (s : State) : Quiet s s := ⟨.refl s, rfl, rfl, rfl, id⟩

theorem Quiet.trans {s t u : State} (a : Quiet s t) (b : Quiet t u) : Quiet s u :=
  ⟨a.discs.trans b.discs, b.cfg.trans a.cfg, b.epoch.trans a.epoch, b.host.trans a.host, b.flush ∘ a.flush⟩

/-- The flush invariant rests on each drive's reference and place, and on what its disc waits to flush. -/
theorem State.FlushInv.of_dirty {s t : State} (flush : s.FlushInv) (refs : ∀ n, (t.drive n).disc = (s.drive n).disc)
    (dirty : ∀ n d, t.disc n = some d → d.dirty = none
      ∨ (s.disc n = some d ∧ (t.drive n).side = (s.drive n).side ∧ (t.drive n).phys = (s.drive n).phys)) :
    t.FlushInv where
  under_head n d holds := by
    rcases dirty n d holds with clean | ⟨before, side, phys⟩
    · exact .inl clean
    · rw [side, phys]
      exact flush.under_head n d before
  not_shared k holds := by
    rw [refs] at holds ⊢
    exact flush.not_shared k holds

/-- States with the same discs, whose drives differ at most in rotation and angle. -/
theorem State.FlushInv.of_drives {s t : State} (flush : s.FlushInv) (discs : t.discs = s.discs)
    (drives : ∀ n, (t.drive n).disc = (s.drive n).disc ∧ (t.drive n).side = (s.drive n).side
      ∧ (t.drive n).phys = (s.drive n).phys) : t.FlushInv :=
  flush.of_dirty (fun n => (drives n).1) fun n _ holds =>
    .inr ⟨by rw [← disc_congr n discs (drives n).1]; exact holds, (drives n).2⟩

/-- A disc after one drive's disc was flushed: it waits for nothing, or it is another drive's and as it was. -/
theorem disc_of_flushed {s t : State} {n m : DriveId} {d : Disc} (discs : t.discs = s.discsFlushedIn n)
    (refs : (t.drive m).disc = (s.drive m).disc) (holds : t.disc m = some d) :
    d.dirty = none ∨ (m ≠ n ∧ s.disc m = some d) := by
  obtain ⟨k, there, found⟩ := Option.bind_eq_some_iff.mp holds
  rw [refs] at there
  have before : s.disc m = s.discs[k]? := by rw [State.disc, there]; rfl
  rw [discs, State.discsFlushedIn] at found
  split at found
  case h_1 empty =>
    refine .inr ⟨?_, before.trans found⟩
    rintro rfl
    rw [empty] at there
    exact nomatch there
  case h_2 j names =>
    rw [List.getElem?_modify] at found
    obtain ⟨d', unchanged, rfl⟩ := Option.map_eq_some_iff.mp found
    by_cases same : j = k
    · exact .inl (by rw [if_pos same])
    · refine .inr ⟨?_, by rw [if_neg same]; exact before.trans unchanged⟩
      rintro rfl
      exact same (Option.some.inj (names.symm.trans there))

/-- `t` is `s` but for the controller's own state and the scheduler's. -/
structure SameWorld (s t : State) : Prop where
  discs : t.discs = s.discs
  zero : t.drive0 = s.drive0
  one : t.drive1 = s.drive1
  cfg : t.cfg = s.cfg
  epoch : t.epoch = s.epoch
  host : t.host = s.host

theorem SameWorld.drive {s t : State} (same : SameWorld s t) (n : DriveId) : t.drive n = s.drive n :=
  drive_congr same.zero same.one n

theorem SameWorld.quiet {s t : State} (same : SameWorld s t) : Quiet s t where
  discs := .of_drives same.discs same.drive
  cfg := same.cfg
  epoch := same.epoch
  host := same.host
  flush flush := flush.of_drives same.discs fun n => by rw [same.drive]; exact ⟨rfl, rfl, rfl⟩

/-- A quiet change after one of the controller's own state. -/
theorem Quiet.before {s t u : State} (quiet : Quiet t u) (same : SameWorld s t) : Quiet s u := same.quiet.trans quiet

/-- A quiet change, then one of the controller's own state. -/
theorem Quiet.then {s t u : State} (quiet : Quiet s t) (same : SameWorld t u) : Quiet s u := quiet.trans same.quiet

/-! ## Drives -/

theorem setDrive_quiet {n : DriveId} {d : Drive} {s : State} (disc : d.disc = (s.drive n).disc)
    (side : d.side = (s.drive n).side) (phys : d.phys = (s.drive n).phys) : Quiet s (s.setDrive n d) := by
  have drives (m : DriveId) : ((s.setDrive n d).drive m).disc = (s.drive m).disc
      ∧ ((s.setDrive n d).drive m).side = (s.drive m).side ∧ ((s.setDrive n d).drive m).phys = (s.drive m).phys := by
    rw [setDrive_drive]
    split
    case isTrue same => rw [same]; exact ⟨disc, side, phys⟩
    case isFalse => exact ⟨rfl, rfl, rfl⟩
  refine ⟨⟨congrArg _ (setDrive_discs _ _ _), fun m => (drives m).1⟩, setDrive_cfg _ _ _, ?_, ?_,
    fun flush => flush.of_drives (setDrive_discs _ _ _) drives⟩ <;> cases n <;> rfl

theorem reschedule_quiet (task : Task) (d : Nat) (s : State) : Quiet s (s.reschedule task d) := by
  cases task with
  | timer => exact SameWorld.quiet ⟨rfl, rfl, rfl, rfl, rfl, rfl⟩
  | rotation n =>
    have armed : Quiet s (s.setDrive n ((s.drive n).withRotation (some (s.armed d)))) := setDrive_quiet rfl rfl rfl
    exact armed.then ⟨rfl, rfl, rfl, rfl, rfl, rfl⟩

theorem cancel_quiet (task : Task) (s : State) : Quiet s (s.cancel task) := by
  cases task with
  | timer => exact SameWorld.quiet ⟨rfl, rfl, rfl, rfl, rfl, rfl⟩
  | rotation n => exact setDrive_quiet rfl rfl rfl

theorem rearmRotation_quiet (n : DriveId) (s : State) : Quiet s (rearmRotation n s) := reschedule_quiet _ _ s

theorem moveHead_quiet (n : DriveId) (sd : Side) (phys : Nat) (s : State) : Quiet s (moveHead n sd phys s) := by
  have same := moveHead_sameDiscs n sd phys s
  refine ⟨same, ?_, ?_, ?_, fun flush => flush.of_dirty same.2 fun m d holds => ?_⟩
  case refine_4 =>
    rcases disc_of_flushed (moveHead_discs n sd phys s) (same.2 m) holds with clean | ⟨other, before⟩
    · exact .inl clean
    · rw [moveHead_drive, if_neg other]
      exact .inr ⟨before, rfl, rfl⟩
  all_goals
    obtain ⟨_, _, _, moved⟩ := moveHead_frame n sd phys s
    rw [moved]

theorem seekTrack_quiet (n : DriveId) (dirIn : Bool) (s : State) :
    Quiet s (seekTrack n dirIn s) := moveHead_quiet _ _ _ s

theorem advanceHead_quiet (n : DriveId) (len : Nat) (s : State) : Quiet s (advanceHead n len s) := by
  have same := advanceHead_sameDiscs n len s
  have place (m : DriveId) : ((advanceHead n len s).drive m).side = (s.drive m).side
      ∧ ((advanceHead n len s).drive m).phys = (s.drive m).phys := by
    rw [advanceHead_drive]
    split
    case isTrue same => rw [same]; exact ⟨rfl, rfl⟩
    case isFalse => exact ⟨rfl, rfl⟩
  refine ⟨same, ?_, ?_, ?_, fun flush => flush.of_dirty same.2 fun m d holds => ?_⟩
  case refine_4 =>
    by_cases wraps : len ≤ (s.drive n).word + 1
    · have discs : (advanceHead n len s).discs = s.discsFlushedIn n := by rw [advanceHead_discs, if_pos wraps]
      rcases disc_of_flushed discs (same.2 m) holds with clean | ⟨_, before⟩
      · exact .inl clean
      · exact .inr ⟨before, place m⟩
    · have discs : (advanceHead n len s).discs = s.discs := by rw [advanceHead_discs, if_neg wraps]
      exact .inr ⟨by rw [← disc_congr m discs (same.2 m)]; exact holds, place m⟩
  all_goals
    obtain ⟨_, _, _, turned⟩ := advanceHead_frame n len s
    rw [turned]

/-! ## The output port -/

theorem applySpin_quiet (n : DriveId) (s : State) : Quiet s (applySpin n s) := by
  unfold applySpin startSpinning stopSpinning
  split
  · split
    · split
      · exact .refl s
      · exact reschedule_quiet _ _ s
    · exact cancel_quiet _ s
  · exact .refl s

theorem applySide_quiet (s : State) : Quiet s (applySide s) := by
  unfold applySide setSide
  split
  · exact .refl s
  · split
    · split
      · exact .refl s
      · exact moveHead_quiet _ _ _ s
    · exact .refl s

theorem setDriveOut_quiet (v : Byte) (s : State) : Quiet s (setDriveOut v s) := by
  refine Quiet.before (t := { s with driveOut := v &&& ~~~stepLine }) ?_ ⟨rfl, rfl, rfl, rfl, rfl, rfl⟩
  have lines := (applySpin_quiet .d0 { s with driveOut := v &&& ~~~stepLine }).trans
    ((applySpin_quiet .d1 _).trans (applySide_quiet _))
  unfold setDriveOut cancelUnload
  split
  · exact lines.then ⟨rfl, rfl, rfl, rfl, rfl, rfl⟩
  · exact lines

theorem raiseLines_quiet (m : Byte) (s : State) : Quiet s (raiseLines m s) := setDriveOut_quiet _ s

theorem clearLines_quiet (m : Byte) (s : State) : Quiet s (clearLines m s) := setDriveOut_quiet _ s

/-! ## Completion -/

theorem startUnload_quiet (s : State) : Quiet s (startUnload s) := by
  unfold startUnload
  split
  · exact SameWorld.quiet ⟨rfl, rfl, rfl, rfl, rfl, rfl⟩
  · split
    · exact clearLines_quiet _ s
    · exact SameWorld.quiet ⟨rfl, rfl, rfl, rfl, rfl, rfl⟩

theorem latch_quiet (code : Byte) (s : State) : Quiet s (latch code s) :=
  (startUnload_quiet _).before ⟨rfl, rfl, rfl, rfl, rfl, rfl⟩

theorem complete_quiet (code : Byte) (s : State) : Quiet s (complete code s) := by
  have disarmed : Quiet s (clearLines writeGateLine s).disarm :=
    (clearLines_quiet _ s).then ⟨rfl, rfl, rfl, rfl, rfl, rfl⟩
  unfold complete
  dsimp only
  generalize (clearLines writeGateLine s).disarm = t at disarmed ⊢
  split
  · exact disarmed.then ⟨rfl, rfl, rfl, rfl, rfl, rfl⟩
  · exact disarmed.trans (latch_quiet _ _)

theorem finishMgmt_quiet (r : Option Byte) (s : State) : Quiet s (finishMgmt r s) := by
  cases r <;> exact SameWorld.quiet ⟨rfl, rfl, rfl, rfl, rfl, rfl⟩

theorem setIrq_quiet (b : Bool) (s : State) : Quiet s (setIrq b s) := SameWorld.quiet ⟨rfl, rfl, rfl, rfl, rfl, rfl⟩

theorem resetController_quiet (s : State) : Quiet s (resetController s) := by
  refine .trans ?_ (setIrq_quiet false _)
  exact (setDriveOut_quiet 0 _).before ⟨rfl, rfl, rfl, rfl, rfl, rfl⟩

/-! ## Outcomes -/

/-- Every next state of an outcome is reached quietly. -/
def Quietly (s : State) (r : Result) : Prop := ∀ t, r = .next t → Quiet s t

theorem Quietly.next {s t : State} (quiet : Quiet s t) : Quietly s (.next t) := by
  intro u same
  cases same
  exact quiet

theorem Quietly.fault (s : State) (f : Fault) : Quietly s (.fault f) := fun _ same => (nomatch same)

theorem Quietly.refused (s : State) (r : Refusal) : Quietly s (.refused r) := fun _ same => (nomatch same)

theorem Quietly.after {s t : State} {r : Result} (quiet : Quiet s t) (then_ : Quietly t r) : Quietly s r :=
  fun u same => quiet.trans (then_ u same)

/-- An operation after a change of the controller's own state. -/
theorem Quietly.after_control {s t : State} {r : Result} (then_ : Quietly t r) (same : SameWorld s t) : Quietly s r :=
  .after same.quiet then_

/-! ## Seeking -/

theorem postSeek_quiet (s : State) : Quiet s (postSeek s) := by
  unfold postSeek
  split
  · exact complete_quiet _ s
  · split <;> exact SameWorld.quiet ⟨rfl, rfl, rfl, rfl, rfl, rfl⟩

theorem scheduleTimer_quietly (d : Nat) (s : State) : Quietly s (State.schedule .timer d s) := by
  unfold State.schedule
  split
  · exact .fault s _
  · exact .next (reschedule_quiet _ _ s)

theorem finishSeek_quietly (n : DriveId) (s : State) : Quietly s (finishSeek n s) := by
  unfold finishSeek
  dsimp only
  generalize s.regs.setTrack n _ = r
  split
  · exact (scheduleTimer_quietly _ _).after_control ⟨rfl, rfl, rfl, rfl, rfl, rfl⟩
  · exact (Quietly.next (postSeek_quiet _)).after_control ⟨rfl, rfl, rfl, rfl, rfl, rfl⟩

theorem issueStep_quietly (n : DriveId) (s : State) : Quietly s (issueStep n s) :=
  .after (seekTrack_quiet n s.seek.dirIn s) ((scheduleTimer_quietly _ _).after_control ⟨rfl, rfl, rfl, rfl, rfl, rfl⟩)

theorem seekStep_quietly (n : DriveId) (s : State) : Quietly s (seekStep n s) := by
  unfold seekStep
  split
  · split
    · exact finishSeek_quietly n s
    · split
      · exact .fault s _
      · exact issueStep_quietly n s
  · split
    · exact finishSeek_quietly n s
    · exact issueStep_quietly n s

theorem seekPlanned_quiet (n : DriveId) (s : State) : Quiet s (seekPlanned n s) := by
  have directed := setDriveOut_quiet (directed (planSeek n s).dirIn s.driveOut) { s with seek := planSeek n s }
  exact (directed.before (s := s) ⟨rfl, rfl, rfl, rfl, rfl, rfl⟩).then ⟨rfl, rfl, rfl, rfl, rfl, rfl⟩

theorem startSeek_quietly (n : DriveId) (s : State) : Quietly s (startSeek n s) := by
  rw [startSeek_eq]
  exact .after (seekPlanned_quiet n s) (seekStep_quietly n _)

/-! ## Commands -/

theorem selectFromCommand_quiet (s : State) : Quiet s (selectFromCommand s) := by
  unfold selectFromCommand
  split
  · exact .refl s
  · exact setDriveOut_quiet _ s

theorem loadHead_quiet (s : State) : Quiet s (loadHead s) :=
  (raiseLines_quiet _ _).before ⟨rfl, rfl, rfl, rfl, rfl, rfl⟩

theorem startOnDrive_quietly (op : Op) (n : DriveId) (s : State) : Quietly s (startOnDrive op n s) := by
  refine .after ((loadHead_quiet { s with deletedSeen := false }).before ⟨rfl, rfl, rfl, rfl, rfl, rfl⟩) ?_
  unfold startOnDrive
  dsimp only
  split
  · exact .next (complete_quiet _ _)
  · split
    · exact .next (complete_quiet _ _)
    · exact startSeek_quietly n _

theorem startDriveCommand_quietly (op : Op) (s : State) : Quietly s (startDriveCommand op s) := by
  unfold startDriveCommand
  split
  · exact .fault s _
  · split
    · exact .refused s _
    · split
      · exact .refused s _
      · exact (startOnDrive_quietly op _ _).after_control ⟨rfl, rfl, rfl, rfl, rfl, rfl⟩

theorem runReadStatus_quietly (s : State) : Quietly s (runReadStatus s) := .next (finishMgmt_quiet _ s)

theorem runSpecify_quietly (s : State) : Quietly s (runSpecify s) := by
  unfold runSpecify
  dsimp only
  split
  · exact (Quietly.next (finishMgmt_quiet _ _)).after_control ⟨rfl, rfl, rfl, rfl, rfl, rfl⟩
  · exact .refused s _

theorem runWriteSpecial_quietly (s : State) : Quietly s (runWriteSpecial s) := by
  unfold runWriteSpecial
  dsimp only
  split
  · exact .next ((setDriveOut_quiet _ s).trans (finishMgmt_quiet _ _))
  · split
    · exact (Quietly.next (finishMgmt_quiet _ _)).after_control ⟨rfl, rfl, rfl, rfl, rfl, rfl⟩
    · exact .refused s _

theorem runReadSpecial_quietly (s : State) : Quietly s (runReadSpecial s) := by
  unfold runReadSpecial
  split
  · exact .next (finishMgmt_quiet _ s)
  · exact .refused s _

theorem dispatch_quietly (s : State) : Quietly s (dispatch s) := by
  refine .after (selectFromCommand_quiet s) ?_
  unfold dispatch
  dsimp only
  split
  · exact runReadStatus_quietly _
  · exact runSpecify_quietly _
  · exact runWriteSpecial_quietly _
  · exact runReadSpecial_quietly _
  all_goals first
    | exact startDriveCommand_quietly _ _
    | exact .refused _ _

theorem acceptCommand_quietly (v : Byte) (s : State) : Quietly s (acceptCommand v s) := by
  unfold acceptCommand
  split
  · exact .fault s _
  · split
    · exact .refused s _
    · split
      · exact .refused s _
      · split
        · exact (dispatch_quietly _).after_control ⟨rfl, rfl, rfl, rfl, rfl, rfl⟩
        · exact .next (SameWorld.quiet ⟨rfl, rfl, rfl, rfl, rfl, rfl⟩)

theorem acceptParameter_quietly (v : Byte) (s : State) : Quietly s (acceptParameter v s) := by
  unfold acceptParameter
  split
  · dsimp only
    split
    · exact (dispatch_quietly _).after_control ⟨rfl, rfl, rfl, rfl, rfl, rfl⟩
    · exact .next (SameWorld.quiet ⟨rfl, rfl, rfl, rfl, rfl, rfl⟩)
  · exact .fault s _

/-! ## The receive path and the starts of recording -/

theorem Received.quiet {s t : State} (received : Received s t) : Quiet s t := by
  cases received
  exact SameWorld.quiet ⟨rfl, rfl, rfl, rfl, rfl, rfl⟩

theorem Slotted.quiet {s t : State} (slotted : Slotted s t) : Quiet s t := by
  cases slotted with
  | going _ received => exact received.quiet
  | ended code u _ _ received _ after => exact received.quiet.trans ((complete_quiet code u).trans after.quiet)

theorem request_quiet (s : State) : Quiet s (request s) := SameWorld.quiet ⟨rfl, rfl, rfl, rfl, rfl, rfl⟩

theorem startWrite_quiet (s : State) : Quiet s (startWrite s) := by
  refine .trans ?_ (request_quiet _)
  exact (raiseLines_quiet _ _).before ⟨rfl, rfl, rfl, rfl, rfl, rfl⟩

theorem startFormat_quiet (s : State) : Quiet s (startFormat s) := by
  refine .trans ?_ (request_quiet _)
  exact (raiseLines_quiet _ _).before ⟨rfl, rfl, rfl, rfl, rfl, rfl⟩

theorem nextSector_quiet (s : State) : Quiet s (nextSector s) := by
  unfold nextSector
  dsimp only
  split
  · exact (complete_quiet _ _).before ⟨rfl, rfl, rfl, rfl, rfl, rfl⟩
  · exact SameWorld.quiet ⟨rfl, rfl, rfl, rfl, rfl, rfl⟩

theorem endWrite_quiet (s : State) : Quiet s (endWrite s) := by
  unfold endWrite
  split
  · exact (clearLines_quiet _ s).trans (nextSector_quiet _)
  · exact .refl s

theorem countUnload_quiet (s : State) : Quiet s (countUnload s) := by
  unfold countUnload
  split
  · exact .refl s
  · split
    · exact (clearLines_quiet _ _).before ⟨rfl, rfl, rfl, rfl, rfl, rfl⟩
    · exact SameWorld.quiet ⟨rfl, rfl, rfl, rfl, rfl, rfl⟩

theorem countIndex_quiet (s : State) : Quiet s (countIndex s) := SameWorld.quiet ⟨rfl, rfl, rfl, rfl, rfl, rfl⟩

theorem onIndexEdge_quiet (s : State) : Quiet s (onIndexEdge s) := by
  unfold onIndexEdge
  split
  · exact countUnload_quiet s
  · exact countUnload_quiet s
  · split
    · exact (countIndex_quiet s).trans (complete_quiet _ _)
    · exact countIndex_quiet s
  · exact countIndex_quiet s
  · exact countIndex_quiet s
  · exact startFormat_quiet s
  · split
    · exact complete_quiet _ s
    · exact .refl s
  all_goals exact .refl s

theorem sampleIndex_quiet (n : DriveId) (s : State) : Quiet s (sampleIndex n s) := by
  rw [sampleIndex_eq]
  split
  · exact (onIndexEdge_quiet _).before ⟨rfl, rfl, rfl, rfl, rfl, rfl⟩
  · exact SameWorld.quiet ⟨rfl, rfl, rfl, rfl, rfl, rfl⟩

theorem readChunk_quiet (w : Slots) (n : Nat) (s : State) : Quiet s (readChunk w n s) := by
  unfold readChunk
  dsimp only
  split
  · exact (onSlots_slotted w n s).quiet.trans (startWrite_quiet _)
  · exact (onSlots_slotted w n s).quiet

theorem deliveredWord_quiet (n : DriveId) (s : State) : Quiet s (deliveredWord n s).2 := by
  rcases (deliveredWord_delivers n s).2 with same | drawn
  · rw [same]
    exact .refl s
  · rw [drawn]
    exact SameWorld.quiet ⟨rfl, rfl, rfl, rfl, rfl, rfl⟩

/-! ## The controller's timer -/

theorem onTimer_quietly (s : State) : Quietly s (onTimer s) := by
  unfold onTimer
  split
  · exact .next (.refl s)
  · split
    · split
      · exact .fault s _
      · exact seekStep_quietly _ s
    · exact .next (.refl s)
  · exact .next (postSeek_quiet s)
  · exact .next (latch_quiet _ s)

end Sys2Proof.Machine
end

section
/-! PROOFS. The cases of a step: its events, the accesses byte by byte, a command's dispatch, a rotation and a chunk, each
as far as it has a next state (20_memory.md R70, R71, 43_command_protocol.md R200 to R210, 40_environment.md R124). -/

namespace Sys2Proof.Machine

/-! ## A command's dispatch -/

/-- The machine of a drive command whose operands are set, its head loaded (43_command_protocol.md R212). -/
def headDown (s : State) : State := loadHead { s with deletedSeen := false }

/-- How a drive command starts from its head load on: a mechanical check ends it, or its seek begins. -/
inductive Starts (op : Op) (n : DriveId) (s : State) : State → Prop
  | notReady : Starts op n s (complete 0x10 (headDown s))
  | writeProtected (checks : op.checksWriteProtect = true) : Starts op n s (complete 0x12 (headDown s))
  | seeks (t : State) (outcome : SeekOutcome n (seekPlanned n (headDown s)) t) : Starts op n s t

theorem startOnDrive_starts {op : Op} {n : DriveId} {s t : State} (next : startOnDrive op n s = .next t) :
    Starts op n s t := by
  unfold startOnDrive at next
  dsimp only at next
  split at next
  case isTrue =>
    cases next
    exact .notReady
  case isFalse =>
    split at next
    case isTrue blocked =>
      cases next
      exact .writeProtected (Bool.and_eq_true_iff.mp blocked).1
    case isFalse =>
      rw [startSeek_eq] at next
      exact .seeks t (seekStep_outcome next)

/-- How a dispatched command runs, its select bits applied: a management command to its end, a drive command as it
starts. -/
inductive Runs (op : Op) (s : State) : State → Prop
  | answers (v : Byte) (management : op.isDrive = false) : Runs op s (finishMgmt (some v) s)
  | setsRegisters (r : Regs) (management : op.isDrive = false) : Runs op s (finishMgmt none { s with regs := r })
  | writesPort (v : Byte) (management : op.isDrive = false) : Runs op s (finishMgmt none (setDriveOut v s))
  | starts (n : DriveId) (t : State) (drive : op.isDrive = true) (current : s.cur = some n)
      (starts : Starts op n (setOperands op s) t) : Runs op s t

theorem startDriveCommand_runs {op : Op} {s t : State} (drive : op.isDrive = true)
    (next : startDriveCommand op s = .next t) : Runs op s t := by
  unfold startDriveCommand at next
  split at next
  case h_1 => exact nomatch next
  case h_2 n current =>
    split at next
    · exact nomatch next
    · split at next
      · exact nomatch next
      · exact .starts n t drive current (startOnDrive_starts next)

theorem runSpecify_runs {s t : State} (next : runSpecify s = .next t) : Runs .specify s t := by
  unfold runSpecify at next
  dsimp only at next
  split at next
  · cases next
    exact .setsRegisters _ rfl
  · exact nomatch next

theorem runWriteSpecial_runs {s t : State} (next : runWriteSpecial s = .next t) : Runs .writeSpecial s t := by
  unfold runWriteSpecial at next
  dsimp only at next
  split at next
  · cases next
    exact .writesPort _ rfl
  · split at next
    · cases next
      exact .setsRegisters _ rfl
    · exact nomatch next

theorem runReadSpecial_runs {s t : State} (next : runReadSpecial s = .next t) : Runs .readSpecial s t := by
  unfold runReadSpecial at next
  split at next
  · cases next
    exact .answers _ rfl
  · exact nomatch next

theorem runOf_runs {op : Op} {s t : State} (next : runOf op s = .next t) : Runs op s t := by
  cases op
  case readStatus =>
    cases next
    exact .answers _ rfl
  case specify => exact runSpecify_runs next
  case writeSpecial => exact runWriteSpecial_runs next
  case readSpecial => exact runReadSpecial_runs next
  case scan | scanDel => exact nomatch next
  all_goals exact startDriveCommand_runs rfl next

theorem dispatch_next {s t : State} (next : dispatch s = .next t) :
    ∃ op, s.command = some op ∧ Runs op (selectFromCommand s) t := by
  obtain ⟨_, _, _, _, _, _, selection⟩ := selectFromCommand_frame s
  cases command : s.command with
  | none =>
    have no_command : (selectFromCommand s).command = none := by rw [selection]; exact command
    unfold dispatch at next
    dsimp only at next
    rw [no_command] at next
    exact nomatch next
  | some op =>
    rw [dispatch_eq command] at next
    exact ⟨op, rfl, runOf_runs next⟩

/-! ## The two bytes of a command -/

/-- A command byte that is accepted: its parameters are waited for, or `READ_STATUS` runs. -/
theorem acceptCommand_next {v : Byte} {s t : State} (next : acceptCommand v s = .next t) :
    s.busy = false ∧ ∃ op, Op.ofCode (codeOf v) = some op
      ∧ ((op.params ≠ 0 ∧ t = commandAccepted v op s)
        ∨ (op = .readStatus ∧ ∃ answer, t = finishMgmt (some answer) (selectFromCommand (commandAccepted v op s)))) := by
  unfold acceptCommand at next
  split at next
  case isTrue => exact nomatch next
  case isFalse idle =>
    refine ⟨Bool.not_eq_true _ ▸ idle, ?_⟩
    split at next
    case h_1 => exact nomatch next
    case h_2 op named =>
      refine ⟨op, named, ?_⟩
      split at next
      case isTrue => exact nomatch next
      case isFalse =>
        split at next
        case isTrue no_params =>
          obtain rfl : op = .readStatus := by cases op <;> first | rfl | exact nomatch no_params
          have command : (commandAccepted v .readStatus s).command = some .readStatus := named
          rw [dispatch_eq command] at next
          cases next
          exact .inr ⟨rfl, _, rfl⟩
        case isFalse params =>
          cases next
          exact .inl ⟨params, rfl⟩

/-- The machine with one more parameter. -/
def collected (v : Byte) (s : State) : State := { s with params := s.params ++ [v] }

/-- A parameter byte that is accepted: more are waited for, or the command is dispatched. -/
theorem acceptParameter_next {v : Byte} {s t : State} (next : acceptParameter v s = .next t) :
    s.fsm = .params ∧ ((s.params.length + 1 ≠ s.nexp ∧ t = collected v s)
      ∨ (s.params.length + 1 = s.nexp ∧ ∃ op, s.command = some op ∧ Runs op (selectFromCommand (collected v s)) t)) := by
  by_cases collecting : s.fsm = .params
  · refine ⟨collecting, ?_⟩
    by_cases last : s.params.length + 1 = s.nexp
    · rw [acceptParameter_last collecting last] at next
      exact .inr ⟨last, dispatch_next next⟩
    · rw [acceptParameter_more collecting last] at next
      cases next
      exact .inl ⟨last, rfl⟩
  · rw [acceptParameter_elsewhere collecting] at next
    exact nomatch next

/-! ## An instruction, byte by byte -/

/-- What each access of the bus leads to, from `P` to `Q`; a command is its bytes, each parameter after the first byte
keeping `Q`. -/
structure BusLeads (P Q : State → Prop) : Prop where
  command : ∀ v s t, acceptCommand v s = .next t → P s → Q t
  parameter : ∀ v s t, acceptParameter v s = .next t → P s → Q t
  parameters : ∀ v s t, acceptParameter v s = .next t → Q s → Q t
  reset : ∀ s, P s → Q (resetController s)
  read : ∀ s v k, P s → Q { s with readData := v, draws := k }
  result : ∀ s, P s → Q { s with readData := s.result, resultFull := false, irq := false, intLine := false }
  data : ∀ s v d, P s → Q { s with readData := v, data := d, drq := false, irq := false, intLine := false }

theorem writeParams_leads {P Q : State → Prop} (bus : BusLeads P Q) (ps : List Byte) {r : Result} {t : State}
    (holds : ∀ s, r = .next s → Q s) (next : writeParams ps r = .next t) : Q t := by
  induction ps generalizing r with
  | nil => exact holds t next
  | cons v ps ih =>
    refine ih (r := andThen r (exec (.wrParam v))) (fun s taken => ?_) next
    cases r with
    | next u => exact bus.parameters v u s taken (holds u rfl)
    | fault => exact nomatch taken
    | refused => exact nomatch taken

/-- What every access of the bus leads to, every instruction leads to: a whole command is its byte writes. -/
theorem exec_leadsTo {P Q : State → Prop} (bus : BusLeads P Q) {i : Instr} {s t : State} (next : exec i s = .next t)
    (holds : P s) : Q t := by
  have by_bytes {c : Byte} {ps : List Byte} (frame : encode i = .command (c :: ps)) : Q t := by
    rw [commandIsItsByteWrites i c ps s frame] at next
    exact writeParams_leads bus ps (fun u taken => bus.command c s u taken holds) next
  cases i
  case rdStatus => cases next; exact bus.read s _ s.draws holds
  case rdResult => cases next; exact bus.result s holds
  case rdUnmapped => cases next; exact bus.read s _ _ holds
  case rdData => cases next; exact bus.data s _ s.data holds
  case wrCommand v => exact bus.command v s t next holds
  case wrParam v => exact bus.parameter v s t next holds
  case wrReset v =>
    unfold exec execWrReset at next
    dsimp only at next
    split at next <;> cases next
    · exact bus.reset s holds
    · exact bus.read s s.readData s.draws holds
  case wrUnmapped => cases next; exact bus.read s s.readData s.draws holds
  case wrData => cases next; exact bus.data s s.readData _ holds
  all_goals exact by_bytes rfl

theorem accessFrame_next {f : Frame} {s t : State} (next : accessFrame f s = .next t) : ∃ i, exec i s = .next t := by
  unfold accessFrame at next
  split at next
  case h_1 i _ => exact ⟨i, next⟩
  case h_2 =>
    unfold refuseFrame at next
    split at next
    · exact ⟨.wrCommand _, next⟩
    all_goals exact nomatch next

/-! ## The events of a step -/

/-- A step that goes on, by what has happened. -/
inductive Event (s : State) : State → Prop
  | rests : Event s s
  | access (f : Frame) (rest : List HostAction) (i : Instr) (t : State) (present : s.host = .access f :: rest)
      (run : exec i { s with host := rest } = .next t) : Event s t
  | timer (a : Armed) (h : List HostAction) (t : State) (armed : s.timer = some a)
      (run : onTimer { s with host := h, epoch := a.expiry, timer := none } = .next t) : Event s t
  | rotation (n : DriveId) (a : Armed) (h : List HostAction) (t : State) (armed : (s.drive n).rotation = some a)
      (run : onRotation n { s with host := h, epoch := a.expiry } = .next t) : Event s t
  | clock (e : Nat) (h : List HostAction) : Event s { s with epoch := e, host := h }
  | builds (disc : Disc) (rest : List HostAction) (present : s.host = .newDisc disc :: rest) :
      Event s { s with host := rest, discs := s.discs ++ [disc] }
  | loads (n : DriveId) (k : Option Nat) (rest : List HostAction) (present : s.host = .setDisc n k :: rest)
      (none_runs : mayChangeDisc s = true) :
      Event s (State.setDrive { s with host := rest } n ((s.drive n).withDisc k))
  | protects (k : Nat) (on : Bool) (rest : List HostAction) (present : s.host = .setWriteProtect k on :: rest) :
      Event s { s with host := rest, discs := s.discs.modify k (Disc.protect on) }
  | resets (rest : List HostAction) : Event s (resetController { s with host := rest })

theorem fire_event {s t : State} {task : Task} {a : Armed} {h : List HostAction} (first : s.nextTask = some (task, a))
    (next : fire task a { s with host := h } = .next t) : Event s t := by
  have armed := nextTask_armed first
  cases task with
  | timer => exact .timer a h t armed next
  | rotation n => exact .rotation n a h t armed next

theorem step_event {s t : State} (next : step s = .next t) : Event s t := by
  unfold step at next
  split at next
  case h_1 =>
    cases next
    exact .rests
  case h_2 f rest present =>
    obtain ⟨i, run⟩ := accessFrame_next next
    exact .access f rest i t present run
  case h_3 ticks rest _ =>
    unfold advanceBy at next
    split at next
    case h_1 task a first =>
      split at next
      case isTrue => exact fire_event first next
      case isFalse =>
        cases next
        exact .clock _ _
    case h_2 =>
      cases next
      exact .clock _ _
  case h_4 disc rest present =>
    unfold buildDisc at next
    split at next
    · split at next
      · cases next
        exact .builds disc rest present
      · exact nomatch next
    · exact nomatch next
  case h_5 n k rest present =>
    unfold changeDisc at next
    split at next
    case isTrue none_runs =>
      split at next
      · cases next
        have event := Event.loads n k rest present none_runs
        cases n <;> exact event
      · exact nomatch next
    case isFalse => exact nomatch next
  case h_6 k on rest present =>
    unfold protectDisc at next
    split at next
    · split at next
      · cases next
        exact .protects k on rest present
      · exact nomatch next
    · exact nomatch next
  case h_7 rest _ =>
    cases next
    exact .resets rest

/-! ## A rotation and a chunk -/

/-- The machine of a rotation before its chunk is taken: the word drawn, the rotation timer armed again. -/
def delivering (n : DriveId) (s : State) : State := rearmRotation n (deliveredWord n s).2

/-- A rotation that goes on: over no words, or with a word for the controller. -/
theorem onRotation_next {n : DriveId} {s t : State} (next : onRotation n s = .next t) :
    t = rearmRotation n s
      ∨ ∃ w len u, onPulses n w 32 (delivering n s) = .next u ∧ t = advanceHead n len u := by
  by_cases empty : trackLen s.cfg (s.disc n) (s.drive n).side (s.drive n).phys = 0
  · rw [onRotation_noWords empty] at next
    cases next
    exact .inl rfl
  · rw [onRotation_word empty] at next
    cases taken : onPulses n (deliveredWord n s).1 32 (rearmRotation n (deliveredWord n s).2) with
    | next u =>
      rw [taken] at next
      cases next
      exact .inr ⟨_, _, u, taken, rfl⟩
    | fault =>
      rw [taken] at next
      exact nomatch next
    | refused =>
      rw [taken] at next
      exact nomatch next

/-- A chunk that goes on: passed by, read, or recorded. -/
theorem onPulses_next {n : DriveId} {w : Slots} {k : Nat} {s t : State} (next : onPulses n w k s = .next t) :
    t = s ∨ (s.cur = some n
      ∧ (((sampleIndex n s).fsm.writes = false ∧ t = readChunk w k (sampleIndex n s))
        ∨ ((sampleIndex n s).fsm.writes = true ∧ emit n k (sampleIndex n s) = .next t))) := by
  by_cases current : s.cur = some n
  · refine .inr ⟨current, ?_⟩
    rw [onPulses_current current] at next
    cases writes : (sampleIndex n s).fsm.writes with
    | true =>
      rw [if_pos writes] at next
      exact .inr ⟨rfl, next⟩
    | false =>
      rw [if_neg (ne_true_of_eq_false writes)] at next
      cases next
      exact .inl ⟨rfl, rfl⟩
  · rw [onPulses_other current] at next
    cases next
    exact .inl rfl

/-- An emission that goes on: the host was late, or a chunk was handed to the drive. -/
theorem emit_next {n : DriveId} {k : Nat} {s t : State} (next : emit n k s = .next t) :
    ((encodeNext k s).2 = true ∧ t = complete 0x0A (encodeNext k s).1)
      ∨ ((encodeNext k s).2 = false ∧ ∃ v,
        writePulses n (chunkOf k (encodeNext k s).1.wr.fifo) k (encodeNext k s).1 = some v
          ∧ t = endWrite (v.dropSlots k)) := by
  unfold emit at next
  dsimp only at next
  split at next
  case isTrue late =>
    cases next
    exact .inl ⟨late, rfl⟩
  case isFalse in_time =>
    unfold handOver at next
    split at next
    case h_1 => exact nomatch next
    case h_2 v written =>
      cases next
      exact .inr ⟨Bool.not_eq_true _ ▸ in_time, v, written, rfl⟩

/-! ## What an instruction leaves -/

theorem bus_quiet (s : State) : BusLeads (Quiet s) (Quiet s) where
  command v _ t next before := before.trans (acceptCommand_quietly v _ t next)
  parameter v _ t next before := before.trans (acceptParameter_quietly v _ t next)
  parameters v _ t next before := before.trans (acceptParameter_quietly v _ t next)
  reset u before := before.trans (resetController_quiet u)
  read _ _ _ before := before.then ⟨rfl, rfl, rfl, rfl, rfl, rfl⟩
  result _ before := before.then ⟨rfl, rfl, rfl, rfl, rfl, rfl⟩
  data _ _ _ before := before.then ⟨rfl, rfl, rfl, rfl, rfl, rfl⟩

theorem exec_quietly (i : Instr) (s : State) : Quietly s (exec i s) :=
  fun _ next => exec_leadsTo (bus_quiet s) next (.refl s)

/-- Settles O28: an instruction is quiet, and quiet states record the same slots. -/
theorem instructionsLeaveTheDiscs : Obligations.InstructionsLeaveTheDiscs := by
  intro i s t next
  have quiet := exec_quietly i s t next
  exact ⟨quiet.discs, quiet.discs.bytes, quiet.epoch, quiet.cfg, quiet.host⟩

end Sys2Proof.Machine
end

section
/-! PROOFS. A chunk recorded under the head (47_write_commands.md R341 to R347, 40_environment.md R126, R138): what it
writes, and what a step can write at all. -/

namespace Sys2Proof.Machine

/-! ## The slots after a chunk was recorded -/

/-- Recording rewrites one track. -/
theorem Recorded.track {d e : Disc} {sd : Side} {phys word : Nat} {ph : Phase} {w : Slots} {n : Nat}
    (recorded : Recorded d sd phys word ph w n e) (x : Side) (p : Nat) :
    e.track x p
      = if x = sd ∧ p = phys then (d.track x p).map fun t => t.writeSlots word ph w n else d.track x p := by
  unfold Disc.track
  rw [recorded.side x]
  by_cases side : x = sd
  · subst side
    rw [if_pos rfl, List.getElem?_modify]
    by_cases under : p = phys
    · simp [under]
    · simp [under, Ne.symm under]
  · rw [if_neg side, if_neg fun both => side both.1]

theorem discByte_set {s : State} {i : Nat} {d e : Disc} (there : s.discs[i]? = some d) (k : Nat) (sd : Side)
    (phys a : Nat) :
    ({ s with discs := s.discs.set i e } : State).discByte k sd phys a
      = if k = i then (match e.track sd phys with | none => Memory.blank | some t => t.cells.read a)
        else s.discByte k sd phys a := by
  have inside : i < s.discs.length := (List.getElem?_eq_some_iff.mp there).1
  unfold State.discByte
  by_cases same : k = i
  · rw [if_pos same, same, List.getElem?_set_self inside]
    rfl
  · rw [if_neg same, List.getElem?_set_ne (Ne.symm same)]

/-- Recording changes no byte but those of its chunk. -/
theorem discByte_recorded_other {s : State} {i : Nat} {d e : Disc} {sd : Side} {phys word : Nat} {ph : Phase} {w : Slots}
    {n : Nat} (there : s.discs[i]? = some d) (recorded : Recorded d sd phys word ph w n e) {k : Nat} {x : Side}
    {p a : Nat}
    (outside : ¬ (k = i ∧ x = sd ∧ p = phys ∧ 4 * word + ph.bytes ≤ a ∧ a < 4 * word + ph.bytes + n / 8)) :
    ({ s with discs := s.discs.set i e } : State).discByte k x p a = s.discByte k x p a := by
  rw [discByte_set there]
  by_cases same : k = i
  · have before : s.discByte k x p a = match d.track x p with | none => Memory.blank | some t => t.cells.read a := by
      unfold State.discByte
      rw [same, there]
      rfl
    rw [if_pos same, before, recorded.track]
    by_cases under : x = sd ∧ p = phys
    · rw [if_pos under]
      cases d.track x p with
      | none => rfl
      | some t =>
        refine Memory.read_writeBytes_other _ _ _ _ ?_
        have apart : ¬ (4 * word + ph.bytes ≤ a ∧ a < 4 * word + ph.bytes + n / 8) :=
          fun chunk => outside ⟨same, under.1, under.2, chunk⟩
        rw [chunkBytes_length]
        omega
    · rw [if_neg under]
  · rw [if_neg same]

/-- The bytes of a recorded chunk. -/
theorem discByte_recorded {s : State} {i : Nat} {d e : Disc} {sd : Side} {phys word : Nat} {ph : Phase} {w : Slots}
    {n j : Nat} {trk : Track} (there : s.discs[i]? = some d) (recorded : Recorded d sd phys word ph w n e)
    (track : d.track sd phys = some trk) (wf : trk.wf = true) (chunk : j < n / 8)
    (inside : 4 * word + ph.bytes + j < 4 * trk.length) :
    ({ s with discs := s.discs.set i e } : State).discByte i sd phys (4 * word + ph.bytes + j)
      = (chunkBytes w n).getD j 0 := by
  have canonical : trk.cells.wf = true := by
    simp only [Track.wf, Bool.and_eq_true] at wf
    exact wf.1.2
  rw [discByte_set there, if_pos rfl, recorded.track, if_pos ⟨rfl, rfl⟩, track]
  show (Memory.writeBytes (4 * trk.length) trk.cells (4 * word + ph.bytes) (chunkBytes w n)).read _ = _
  rw [Memory.read_writeBytes _ _ _ canonical, chunkBytes_length, if_pos ⟨by omega, by omega, inside⟩,
    Nat.add_sub_cancel_left]

theorem Recorded.lengths {d e : Disc} {sd : Side} {phys word : Nat} {ph : Phase} {w : Slots} {n : Nat}
    (recorded : Recorded d sd phys word ph w n e) (x : Side) :
    (e.side x).map Track.length = (d.side x).map Track.length := by
  apply List.ext_getElem?
  intro p
  have track := recorded.track x p
  unfold Disc.track at track
  rw [List.getElem?_map, List.getElem?_map, track]
  split
  · rw [Option.map_map]
    rfl
  · rfl

/-- A chunk is taken by an unprotected disc whose other tracks wait for nothing (40_environment.md R126, R138). -/
theorem writePulses_records {n : DriveId} {s : State} {i : Nat} {d : Disc} (holds : (s.drive n).disc = some i)
    (there : s.discs[i]? = some d) (writable : d.writeProtect = false)
    (clean : d.dirty = none ∨ d.dirty = some ((s.drive n).side, (s.drive n).phys)) (w : Slots) (k : Nat) :
    ∃ e, Recorded d (s.drive n).side (s.drive n).phys (s.drive n).word (s.drive n).phase w k e
      ∧ writePulses n w k s = some { s with discs := s.discs.set i e } := by
  have disc : s.disc n = some d := by rw [State.disc, holds]; exact there
  obtain ⟨e, written⟩ : ∃ e, d.writePulses (s.drive n).side (s.drive n).phys (s.drive n).word (s.drive n).phase w k
      = some e := ⟨_, if_pos clean⟩
  refine ⟨e, Disc.writePulses_recorded written, ?_⟩
  unfold writePulses
  rw [disc]
  dsimp only
  rw [if_neg (ne_true_of_eq_false writable), written, Option.map_some, onDisc_eq holds,
    List.modify_eq_set_getElem?, there]
  rfl

/-! ## The item of a chunk -/

/-- The bytes of a 32-slot chunk, the earliest first (00_scope.md R13). -/
theorem chunkBytes_getD (w : Slots) {j : Nat} (byte : j < 4) :
    (chunkBytes w 32).getD j 0 = w.extractLsb' (8 * (3 - j)) 8 := by
  interval_cases j <;> rfl

/-- A queue that holds one encoded byte hands it over as its word. -/
theorem chunkOf_itemSlots (c d : Byte) : chunkOf 32 (itemSlots c d) = fmEncode c d := by
  have length : (itemSlots c d).length = 32 := slotsOf_length _ _
  rw [chunkOf, List.take_left' length]
  exact foldl_shiftIn_slotsOf _ _

/-- The machine after the item `it` was encoded into an empty queue and `rest` is left (47_write_commands.md R341,
R346, R347). -/
def encodedItem (it : WriteItem) (rest : List WriteItem) (fifo : List Bool) (asks : Bool) (s : State) : State :=
  { s with
    wr := { s.wr with
      wseq := if it = .gap4 then it :: rest else rest, fifo := fifo
      hostLeft := if it = .host then s.wr.hostLeft - 1 else s.wr.hostLeft
      fmtDone := s.wr.fmtDone || decide (it = .gap4) }
    cap := { s.cap with crc := itemCrc it s }
    drq := s.drq || asks, irq := s.irq || asks, intLine := s.intLine || asks }

theorem encodeNext_first {s : State} {it : WriteItem} {rest : List WriteItem} (empty : s.wr.fifo = [])
    (first : s.wr.wseq = it :: rest) :
    encodeNext 32 s = encodeItem it (if it = .gap4 then s else { s with wr := { s.wr with wseq := rest } }) := by
  rw [encodeNext, empty, if_pos (by decide), first]

theorem takeHostByte_more {s : State} (more : 1 < s.wr.hostLeft) :
    takeHostByte s
      = request (enqueueField s.cap.crc dataClock s.data { s with wr := { s.wr with hostLeft := s.wr.hostLeft - 1 } }) :=
  if_pos (show 0 < s.wr.hostLeft - 1 by omega)

theorem takeHostByte_last {s : State} (last : ¬ 1 < s.wr.hostLeft) :
    takeHostByte s
      = enqueueField s.cap.crc dataClock s.data { s with wr := { s.wr with hostLeft := s.wr.hostLeft - 1 } } :=
  if_neg (show ¬ 0 < s.wr.hostLeft - 1 by omega)

theorem encodeNext_item {s : State} {it : WriteItem} {rest : List WriteItem} (empty : s.wr.fifo = [])
    (first : s.wr.wseq = it :: rest) (served : it = .host → s.drq = false) :
    encodeNext 32 s
      = (encodedItem it rest (itemSlots (itemByte it s).1 (itemByte it s).2)
          (decide (it = .host) && decide (1 < s.wr.hostLeft)) s, false) := by
  rw [encodeNext_first empty first]
  cases it with
  | host =>
    rw [if_neg (by decide)]
    refine (if_neg (by rw [show _ = s.drq from rfl, served rfl]; decide)).trans ?_
    by_cases more : 1 < s.wr.hostLeft
    · rw [takeHostByte_more (by exact more)]
      simp [encodedItem, request, setIrq, enqueueField, enqueue, itemByte, itemCrc, empty, more, dataClock]
    · rw [takeHostByte_last (by exact more)]
      simp [encodedItem, enqueueField, enqueue, itemByte, itemCrc, empty, more, dataClock]
  | gap4 => simp [encodeItem, encodedItem, enqueue, itemByte, itemCrc, empty, first, dataClock]
  | _ =>
    simp [encodeItem, encodedItem, enqueueField, enqueue, itemByte, itemCrc, empty, dataClock, markClock, crcInit]

theorem encodeNext_late_host {s : State} {rest : List WriteItem} (empty : s.wr.fifo = [])
    (first : s.wr.wseq = .host :: rest) (late : s.drq = true) :
    encodeNext 32 s = ({ s with wr := { s.wr with wseq := rest } }, true) := by
  rw [encodeNext_first empty first, if_neg (by decide)]
  exact if_pos late

/-! ## The statements about one chunk -/

/-- Settles O45: the late byte is taken off the sequence, and the command ends without a chunk. -/
theorem lateHostByteWritesNothing : Obligations.LateHostByteWritesNothing := by
  intro n s rest outside empty first late
  have flagless : flagOf s = 0x00 := if_neg fun both => ne_true_of_eq_false outside both.1
  have ended : emit n 32 s = .next (complete 0x0A { s with wr := { s.wr with wseq := rest } }) := by
    unfold emit
    rw [encodeNext_late_host empty first late]
    rfl
  have discs : SameDiscs s { s with wr := { s.wr with wseq := rest } } := .of_drives rfl (drive_congr rfl rfl)
  exact ⟨_, ended, complete_endsWith_of_flagless flagless, (discs.trans (complete_sameDiscs _ _)).bytes,
    by rw [complete_wr]⟩

/-- The end of a written data field. -/
theorem endWrite_last {s : State} (writing : s.fsm = .writeData) (done : s.wr.wseq = []) (empty : s.wr.fifo = []) :
    endWrite s = nextSector (clearLines writeGateLine s) := if_pos ⟨writing, done, empty⟩

theorem endWrite_more {s : State} (more : s.fsm ≠ .writeData ∨ s.wr.wseq ≠ []) : endWrite s = s :=
  if_neg fun ⟨writing, done, _⟩ => more.elim (· writing) (· done)

/-- After the last chunk of a field the gate is off, and the next sector is sought or the command ends. -/
theorem endWrite_ends {s : State} (writing : s.fsm = .writeData) (done : s.wr.wseq = []) (empty : s.wr.fifo = []) :
    ∃ g v, PortWritten (s.driveOut &&& 0xFE) s g ∧ v = { g with op := { s.op with count := s.op.count - 1 } }
      ∧ (v.op.count = 0 → EndsWith (0x00 ||| flagOf s) v (endWrite s))
      ∧ (v.op.count ≠ 0 →
        endWrite s = { v with
          op := { v.op with sector := s.op.sector + 1 }, fsm := .searchId, sr := 0, indexCount := 0 }) := by
  have op : (clearLines writeGateLine s).op = s.op := clearLines_op _ s
  refine ⟨clearLines writeGateLine s, _, setDriveOut_written _ s, rfl, fun last => ?_, fun more => ?_⟩
  · have flag : flagOf ({ clearLines writeGateLine s with op := { s.op with count := s.op.count - 1 } } : State)
        = flagOf s := by
      obtain ⟨_, _, _, _, _, written⟩ := setDriveOut_frame (s.driveOut &&& ~~~writeGateLine) s
      unfold clearLines
      rw [written]
      rfl
    rw [endWrite_last writing done empty, nextSector_last (by rw [op]; exact last), op, ← flag]
    exact complete_endsWith 0x00 _
  · rw [endWrite_last writing done empty, nextSector_more (by rw [op]; exact more), op]

/-- Settles O44: the item encoded, its word recorded, and the field's end. -/
theorem emitRecordsOneItem : Obligations.EmitRecordsOneItem := by
  rintro n s it rest k disc trk empty first served holds there writable clean track wf inside phase asks rfl
  have encoded := encodeNext_item empty first served
  generalize asks_is : (decide (it = WriteItem.host) && decide (1 < s.wr.hostLeft)) = asks at encoded ⊢
  generalize fifo_is : itemSlots (itemByte it s).1 (itemByte it s).2 = fifo at encoded
  have word_is : chunkOf 32 fifo = fmEncode (itemByte it s).1 (itemByte it s).2 := by
    rw [← fifo_is]
    exact chunkOf_itemSlots _ _
  have drive : (encodedItem it rest fifo asks s).drive n = s.drive n := drive_congr rfl rfl n
  obtain ⟨written, recorded, taken⟩ := writePulses_records (n := n) (s := encodedItem it rest fifo asks s)
    (by rw [drive]; exact holds) (by exact there) writable (by rw [drive]; exact clean)
    (chunkOf 32 (encodedItem it rest fifo asks s).wr.fifo) 32
  rw [drive, phase] at recorded
  replace recorded : Recorded _ _ _ _ _ (chunkOf 32 fifo) _ _ := recorded
  rw [word_is] at recorded
  have all_handed : fifo.drop 32 = [] := by
    rw [List.drop_eq_nil_iff, ← fifo_is]
    exact (slotsOf_length _ _).le
  have emitted : emit n 32 s = .next (endWrite { encodedItem it rest [] asks s with discs := s.discs.set k written }) := by
    have handed : ({ encodedItem it rest fifo asks s with discs := s.discs.set k written } : State).dropSlots 32
        = { encodedItem it rest [] asks s with discs := s.discs.set k written } := by
      unfold State.dropSlots encodedItem
      rw [all_handed]
    unfold emit handOver
    rw [encoded]
    dsimp only
    rw [if_neg Bool.false_ne_true, taken, ← handed]
    rfl
  generalize u_is : ({ encodedItem it rest [] asks s with discs := s.discs.set k written } : State) = u at emitted
  have same_bytes : SameDiscBytes u (endWrite u) := (endWrite_quiet u).discs.bytes
  have bytes (m : Nat) (sd : Side) (phys a : Nat) :
      u.discByte m sd phys a = ({ s with discs := s.discs.set k written } : State).discByte m sd phys a := by
    rw [← u_is]
    rfl
  refine ⟨u, endWrite u, written, emitted, fun j byte => ?item, fun m sd phys a outside => ?elsewhere, same_bytes,
    recorded.writeProtect.trans writable, recorded.dirty, recorded.lengths, u_is.symm, fun more => ?goesOn,
    fun writing done => ?ends⟩
  case item =>
    rw [same_bytes, bytes]
    exact (discByte_recorded there recorded track wf byte (by show 4 * (s.drive n).word + 0 + j < _; omega)).trans
      (chunkBytes_getD _ byte)
  case elsewhere =>
    rw [same_bytes, bytes]
    exact discByte_recorded_other there recorded outside
  case goesOn =>
    refine endWrite_more ?_
    rw [← u_is] at more ⊢
    exact more
  case ends =>
    have ends := endWrite_ends (s := u) (by rw [← u_is]; exact writing) done (by rw [← u_is]; rfl)
    have port : u.driveOut = s.driveOut := by rw [← u_is]; rfl
    have op : u.op = s.op := by rw [← u_is]; rfl
    have flag : flagOf u = flagOf s := by rw [← u_is]; rfl
    rw [port, op, flag] at ends
    exact ends

end Sys2Proof.Machine
end

section
/-! PROOFS. The discs through a step: what waits for a flush (20_memory.md R77), what is written (R63), the host's own
changes (40_environment.md R129, R142), and the faults that no step reaches (60_exceptions.md R432). -/

namespace Sys2Proof.Machine

/-! ## Recording and the flush invariant -/

theorem encodeNext_sameWorld (n : Nat) (s : State) : SameWorld s (encodeNext n s).1 := by
  have rest := (encodeNext_encoded n s).rest
  generalize (encodeNext n s).1 = r at rest ⊢
  constructor <;> rw [rest]

/-- The disc recorded on waits under its head, and no other drive holds it. -/
theorem writePulses_flushInv {n : DriveId} {w : Slots} {k : Nat} {s t : State} (flush : s.FlushInv)
    (written : writePulses n w k s = some t) : t.FlushInv := by
  obtain rfl | ⟨i, d, e, holds, there, _, recorded, rfl⟩ := writePulses_cases written
  · exact flush
  have drive (m : DriveId) : ({ s with discs := s.discs.set i e } : State).drive m = s.drive m := drive_congr rfl rfl m
  refine ⟨fun m f in_drive => ?_, fun k => by rw [drive, drive]; exact flush.not_shared k⟩
  obtain ⟨j, names, found⟩ := Option.bind_eq_some_iff.mp in_drive
  rw [drive] at names ⊢
  by_cases same : i = j
  · subst same
    have here : m = n := by
      cases m <;> cases n
      · rfl
      · exact absurd holds (flush.not_shared i names)
      · exact absurd names (flush.not_shared i holds)
      · rfl
    subst here
    obtain rfl := Option.some.inj ((List.getElem?_set_self (List.getElem?_eq_some_iff.mp there).1).symm.trans found)
    exact .inr recorded.dirty
  · refine flush.under_head m f ?_
    rw [State.disc, names]
    exact (List.getElem?_set_ne same).symm.trans found

theorem emit_flushInv {n : DriveId} {k : Nat} {s t : State} (flush : s.FlushInv) (next : emit n k s = .next t) :
    t.FlushInv := by
  have encoded := (encodeNext_sameWorld k s).quiet.flush flush
  rcases emit_next next with ⟨_, rfl⟩ | ⟨_, v, written, rfl⟩
  · exact (complete_quiet _ _).flush encoded
  · have dropped : Quiet v (v.dropSlots k) := SameWorld.quiet ⟨rfl, rfl, rfl, rfl, rfl, rfl⟩
    exact (endWrite_quiet _).flush (dropped.flush (writePulses_flushInv encoded written))

theorem delivering_quiet (n : DriveId) (s : State) : Quiet s (delivering n s) :=
  (deliveredWord_quiet n s).trans (rearmRotation_quiet n _)

theorem onRotation_flushInv {n : DriveId} {s t : State} (flush : s.FlushInv) (next : onRotation n s = .next t) :
    t.FlushInv := by
  rcases onRotation_next next with rfl | ⟨w, len, u, taken, rfl⟩
  · exact (rearmRotation_quiet n s).flush flush
  have delivered := (delivering_quiet n s).flush flush
  refine (advanceHead_quiet n len u).flush ?_
  rcases onPulses_next taken with rfl | ⟨_, ⟨_, rfl⟩ | ⟨_, emitted⟩⟩
  · exact delivered
  · exact (readChunk_quiet _ _ _).flush ((sampleIndex_quiet n _).flush delivered)
  · exact emit_flushInv ((sampleIndex_quiet n _).flush delivered) emitted

/-- A loaded disc that waits for nothing and is in no other drive (log entry 18). -/
theorem loads_flushInv {n : DriveId} {k : Option Nat} {s : State} (flush : s.FlushInv)
    (flushed : ∀ j, k = some j → (∀ d, s.discs[j]? = some d → d.dirty = none) ∧ ∀ m, m ≠ n → (s.drive m).disc ≠ some j) :
    (s.setDrive n ((s.drive n).withDisc k)).FlushInv := by
  have other (m : DriveId) (elsewhere : m ≠ n) : (s.setDrive n ((s.drive n).withDisc k)).drive m = s.drive m := by
    rw [setDrive_drive, if_neg elsewhere]
  have here : ((s.setDrive n ((s.drive n).withDisc k)).drive n).disc = k := by rw [setDrive_drive, if_pos rfl]; rfl
  refine ⟨fun m d holds => ?_, fun j first second => ?_⟩
  · obtain ⟨j, names, found⟩ := Option.bind_eq_some_iff.mp holds
    rw [setDrive_discs] at found
    by_cases same : m = n
    · subst same
      rw [here] at names
      exact .inl ((flushed j names).1 d found)
    · rw [other m same] at names ⊢
      refine flush.under_head m d ?_
      rw [State.disc, names]
      exact found
  · cases n with
    | d0 =>
      rw [here] at first
      rw [other .d1 (by decide)] at second
      exact (flushed j first).2 .d1 (by decide) second
    | d1 =>
      rw [here] at second
      rw [other .d0 (by decide)] at first
      exact (flushed j second).2 .d0 (by decide) first

theorem Event.flushInv {s t : State} (event : Event s t) (discs : s.DiscInv) (flush : s.FlushInv)
    (loads : s.loadsFlushedDisc) : t.FlushInv := by
  have later {u : State} (same_discs : u.discs = s.discs) (zero : u.drive0 = s.drive0) (one : u.drive1 = s.drive1) :
      u.FlushInv := flush.of_drives same_discs fun n => by rw [drive_congr zero one]; exact ⟨rfl, rfl, rfl⟩
  cases event with
  | rests => exact flush
  | access _ rest i _ _ run => exact (exec_quietly i _ t run).flush (later rfl rfl rfl)
  | timer _ _ _ _ run => exact (onTimer_quietly _ t run).flush (later rfl rfl rfl)
  | rotation n _ _ _ _ run => exact onRotation_flushInv (by exact later rfl rfl rfl) run
  | clock => exact later rfl rfl rfl
  | resets => exact (resetController_quiet _).flush (later rfl rfl rfl)
  | loads n k rest present _ =>
    refine loads_flushInv (s := { s with host := rest }) (later rfl rfl rfl) ?_
    rintro j rfl
    obtain ⟨clean, alone⟩ := loads n j rest present
    exact ⟨clean, fun m elsewhere => by cases m <;> exact alone _ elsewhere⟩
  | builds disc rest _ =>
    refine flush.of_dirty (drive_congr rfl rfl · ▸ rfl) fun n d holds => .inr ⟨?_, ?_⟩
    · obtain ⟨k, names, found⟩ := Option.bind_eq_some_iff.mp holds
      have before : (s.drive n).disc = some k := by cases n <;> exact names
      rw [State.disc, before]
      exact (List.getElem?_append_left (discs.references n k before)).symm.trans found
    · cases n <;> exact ⟨rfl, rfl⟩
  | protects j on rest _ =>
    refine ⟨fun n d holds => ?_, flush.not_shared⟩
    obtain ⟨k, names, found⟩ := Option.bind_eq_some_iff.mp holds
    have before : (s.drive n).disc = some k := by cases n <;> exact names
    obtain ⟨d', there, rfl⟩ := Option.map_eq_some_iff.mp ((List.getElem?_modify ..).symm.trans found)
    have dirty := flush.under_head n d' (by rw [State.disc, before]; exact there)
    have same_dirty : (if j = k then d'.protect on else d').dirty = d'.dirty := by split <;> rfl
    rw [same_dirty]
    cases n <;> exact dirty

/-! ## The host's own changes -/

theorem mayChangeDisc_eq (s : State) : mayChangeDisc s = !s.fsm.running := by
  unfold mayChangeDisc Fsm.running
  cases s.fsm <;> rfl

theorem step_newDisc {s : State} {disc : Disc} {rest : List HostAction} (host : s.host = .newDisc disc :: rest) :
    step s = buildDisc disc { s with host := rest } := by rw [step, host]

theorem step_setDisc {s : State} {n : DriveId} {disc : Option Nat} {rest : List HostAction}
    (host : s.host = .setDisc n disc :: rest) : step s = changeDisc n disc { s with host := rest } := by rw [step, host]

theorem step_setWriteProtect {s : State} {k : Nat} {on : Bool} {rest : List HostAction}
    (host : s.host = .setWriteProtect k on :: rest) : step s = protectDisc k on { s with host := rest } := by
  rw [step, host]

theorem buildDisc_cases (disc : Disc) (s : State) :
    (disc.wf = true → disc.fits s.cfg = true → buildDisc disc s = .next { s with discs := s.discs ++ [disc] })
      ∧ (disc.wf = false → buildDisc disc s = .refused .malformedDisc)
      ∧ (disc.wf = true → disc.fits s.cfg = false → buildDisc disc s = .refused .trackTooShort) := by
  unfold buildDisc
  refine ⟨fun wf fits => ?_, fun malformed => ?_, fun wf short => ?_⟩
  · rw [if_pos wf, if_pos fits]
  · rw [if_neg (ne_true_of_eq_false malformed)]
  · rw [if_pos wf, if_neg (ne_true_of_eq_false short)]

theorem hasDisc_all (disc : Option Nat) (s : State) :
    disc.all s.hasDisc = true ↔ ∀ k, disc = some k → k < s.discs.length := by
  cases disc <;> simp [State.hasDisc]

theorem changeDisc_running {s : State} (running : s.fsm.running = true) (n : DriveId) (disc : Option Nat) :
    changeDisc n disc s = .refused .discChange := by
  rw [changeDisc, if_neg (by rw [mayChangeDisc_eq, running]; decide)]

theorem changeDisc_loads {s : State} (none_runs : s.fsm.running = false) (n : DriveId) {disc : Option Nat}
    (there : ∀ k, disc = some k → k < s.discs.length) :
    changeDisc n disc s = .next (s.setDrive n ((s.drive n).withDisc disc)) := by
  rw [changeDisc, if_pos (by rw [mayChangeDisc_eq, none_runs]; decide), if_pos ((hasDisc_all disc s).mpr there)]

theorem changeDisc_missing {s : State} (none_runs : s.fsm.running = false) (n : DriveId) {disc : Option Nat}
    (missing : ∃ k, disc = some k ∧ s.discs.length ≤ k) : changeDisc n disc s = .refused .noSuchDisc := by
  obtain ⟨k, names, past⟩ := missing
  rw [changeDisc, if_pos (by rw [mayChangeDisc_eq, none_runs]; decide),
    if_neg fun there => absurd ((hasDisc_all disc s).mp there k names) (Nat.not_lt.mpr past)]

theorem protectDisc_running {s : State} (running : s.fsm.running = true) (k : Nat) (on : Bool) :
    protectDisc k on s = .refused .discChange := by
  rw [protectDisc, if_neg (by rw [mayChangeDisc_eq, running]; decide)]

theorem protectDisc_sets {s : State} (none_runs : s.fsm.running = false) {k : Nat} (there : k < s.discs.length)
    (on : Bool) : protectDisc k on s = .next { s with discs := s.discs.modify k (Disc.protect on) } := by
  rw [protectDisc, if_pos (by rw [mayChangeDisc_eq, none_runs]; decide), if_pos (by exact decide_eq_true there)]

theorem protectDisc_missing {s : State} (none_runs : s.fsm.running = false) {k : Nat} (missing : s.discs.length ≤ k)
    (on : Bool) : protectDisc k on s = .refused .noSuchDisc := by
  rw [protectDisc, if_pos (by rw [mayChangeDisc_eq, none_runs]; decide),
    if_neg (by exact fun there => absurd (of_decide_eq_true there) (Nat.not_lt.mpr missing))]

/-- Settles O57: the disc invariant by the elementary changes, the flush invariant by the events of a step, the host's
changes by their own cases. -/
theorem stepKeepsTheDiscs : Obligations.StepKeepsTheDiscs := by
  refine ⟨fun s t discs next => ⟨step_keeps (fun _ _ => Change.discInv) next discs,
    fun flush loads => (step_event next).flushInv discs flush loads⟩, fun s rest => ⟨fun disc host => ?built,
    fun n disc host => ?loaded, fun k on host => ?flagged⟩⟩
  case built =>
    rw [step_newDisc host]
    exact buildDisc_cases disc { s with host := rest }
  case loaded =>
    rw [step_setDisc host]
    refine ⟨fun running => changeDisc_running (s := { s with host := rest }) running n disc, fun none_runs there =>
      ⟨_, changeDisc_loads (s := { s with host := rest }) none_runs n there, ?_, fun m elsewhere => ?_,
        setDrive_only _ _ _⟩,
      fun none_runs missing => changeDisc_missing (s := { s with host := rest }) none_runs n missing⟩
    · rw [setDrive_drive, if_pos rfl]
      cases n <;> rfl
    · rw [setDrive_drive, if_neg elsewhere]
      cases m <;> rfl
  case flagged =>
    rw [step_setWriteProtect host]
    refine ⟨fun running => protectDisc_running (s := { s with host := rest }) running k on, fun none_runs there =>
      ⟨_, protectDisc_sets (s := { s with host := rest }) none_runs there on, ?_, fun m elsewhere => ?_, rfl⟩,
      fun none_runs missing => protectDisc_missing (s := { s with host := rest }) none_runs missing on⟩
    · exact List.getElem?_modify_eq _ k s.discs
    · exact List.getElem?_modify_ne _ _ (Ne.symm elsewhere)

end Sys2Proof.Machine
end

section
/-! PROOFS. The faults no step reaches (60_exceptions.md R432, 20_memory.md R77) and the slots a step can write
(20_memory.md R63, 47_write_commands.md R340, 40_environment.md R138). -/

namespace Sys2Proof.Machine

/-! ## No internal fault -/

theorem NoInternalFault.next (t : State) : NoInternalFault (.next t) := ⟨nofun, nofun⟩

theorem NoInternalFault.refused (r : Refusal) : NoInternalFault (.refused r) := ⟨nofun, nofun⟩

theorem finishSeek_noInternalFault {n : DriveId} {s : State} (unarmed : s.timer = none) :
    NoInternalFault (finishSeek n s) := by
  obtain no_delay | delay := Nat.eq_zero_or_pos (seekDelay s)
  · rw [finishSeek_goesOn no_delay]
    exact .next _
  · rw [finishSeek_waits delay unarmed]
    exact .next _

theorem seekStep_noInternalFault {n : DriveId} {s : State} (unarmed : s.timer = none) :
    NoInternalFault (seekStep n s) := by
  obtain there | ⟨recal, away, used⟩ | ⟨to_go, away⟩ := seek_cases n s
  · rw [seekStep_finishes there]
    exact finishSeek_noInternalFault unarmed
  · rw [seekStep_exhausted recal away used]
    exact ⟨nofun, nofun⟩
  · rw [seekStep_steps to_go away, issueStep_eq unarmed]
    exact .next _

theorem seekPlanned_timer (n : DriveId) (s : State) : (seekPlanned n s).timer = s.timer := by
  obtain ⟨_, _, _, _, _, planned⟩ := seekPlanned_frame n s
  rw [planned]

theorem headDown_timer (s : State) : (headDown s).timer = s.timer := by
  obtain ⟨_, _, _, _, loaded⟩ := loadHead_frame { s with deletedSeen := false }
  rw [headDown, loaded]

theorem startOnDrive_noInternalFault {op : Op} {n : DriveId} {s : State} (unarmed : s.timer = none) :
    NoInternalFault (startOnDrive op n s) := by
  unfold startOnDrive
  dsimp only
  split
  · exact .next _
  · split
    · exact .next _
    · rw [startSeek_eq]
      refine seekStep_noInternalFault ?_
      rw [seekPlanned_timer]
      exact (headDown_timer s).trans unarmed

theorem startDriveCommand_noInternalFault {op : Op} {s : State} (unarmed : s.timer = none) :
    NoInternalFault (startDriveCommand op s) := by
  unfold startDriveCommand
  split
  · exact ⟨nofun, nofun⟩
  · split
    · exact .refused _
    · split
      · exact .refused _
      · exact startOnDrive_noInternalFault (by exact unarmed)

theorem runOf_noInternalFault (op : Op) {s : State} (unarmed : s.timer = none) : NoInternalFault (runOf op s) := by
  cases op
  case readStatus => exact .next _
  case specify =>
    unfold runOf runSpecify
    dsimp only
    split
    · exact .next _
    · exact .refused _
  case writeSpecial =>
    unfold runOf runWriteSpecial
    dsimp only
    split
    · exact .next _
    · split
      · exact .next _
      · exact .refused _
  case readSpecial =>
    unfold runOf runReadSpecial
    dsimp only
    split
    · exact .next _
    · exact .refused _
  case scan | scanDel => exact .refused _
  all_goals exact startDriveCommand_noInternalFault unarmed

theorem selectFromCommand_timer (s : State) : (selectFromCommand s).timer = s.timer := by
  obtain ⟨_, _, _, _, _, _, selection⟩ := selectFromCommand_frame s
  rw [selection]

theorem dispatch_noInternalFault {s : State} (unarmed : s.timer = none) : NoInternalFault (dispatch s) := by
  cases command : s.command with
  | some op =>
    rw [dispatch_eq command]
    exact runOf_noInternalFault op ((selectFromCommand_timer s).trans unarmed)
  | none =>
    obtain ⟨_, _, _, _, _, _, selection⟩ := selectFromCommand_frame s
    have no_command : (selectFromCommand s).command = none := by rw [selection]; exact command
    unfold dispatch
    dsimp only
    rw [no_command]
    exact .refused _

/-- With no command running and none being collected the timer is not armed (10_state.md R41). -/
theorem State.SequenceInv.unarmed {s : State} (sequence : s.SequenceInv) (untimed : s.fsm.timed = false) :
    s.timer = none := by
  have armed := sequence.timer_iff
  rw [untimed] at armed
  exact Option.isSome_eq_false_iff.mp armed |> Option.isNone_iff_eq_none.mp

theorem State.SequenceInv.idle {s : State} (sequence : s.SequenceInv) (not_busy : s.busy = false) : s.fsm = .idle := by
  have busy := sequence.busy_iff
  rw [not_busy] at busy
  exact not_not.mp (of_decide_eq_false busy.symm)

theorem acceptCommand_noInternalFault {s : State} (sequence : s.SequenceInv) (v : Byte) :
    NoInternalFault (acceptCommand v s) := by
  unfold acceptCommand
  split
  case isTrue => exact ⟨nofun, nofun⟩
  case isFalse not_busy =>
    have unarmed := sequence.unarmed (by rw [sequence.idle (Bool.not_eq_true _ ▸ not_busy)]; rfl)
    split
    · exact .refused _
    · split
      · exact .refused _
      · split
        · exact dispatch_noInternalFault (by exact unarmed)
        · exact .next _

theorem acceptParameter_noInternalFault {s : State} (sequence : s.SequenceInv) (v : Byte) :
    NoInternalFault (acceptParameter v s) := by
  unfold acceptParameter
  split
  case isFalse => exact ⟨nofun, nofun⟩
  case isTrue collecting =>
    dsimp only
    split
    · exact dispatch_noInternalFault (by exact sequence.unarmed (by rw [collecting]; rfl))
    · exact .next _

theorem exec_noInternalFault {s : State} (sequence : s.SequenceInv) (i : Instr) : NoInternalFault (exec i s) := by
  have whole {c : Byte} {ps : List Byte} (frame : encode i = .command (c :: ps)) : NoInternalFault (exec i s) := by
    obtain ⟨op, named⟩ := named_of_encode frame
    cases busy : s.busy with
    | true =>
      rw [exec_of_busy frame busy]
      exact ⟨nofun, nofun⟩
    | false =>
      rw [exec_of_idle frame named busy]
      refine runOf_noInternalFault op ((selectFromCommand_timer _).trans ?_)
      exact sequence.unarmed (by rw [sequence.idle busy]; rfl)
  cases i
  case rdStatus | rdResult | rdUnmapped | rdData | wrUnmapped | wrData => exact .next _
  case wrCommand v => exact acceptCommand_noInternalFault sequence v
  case wrParam v => exact acceptParameter_noInternalFault sequence v
  case wrReset v =>
    unfold exec execWrReset
    dsimp only
    split <;> exact .next _
  all_goals exact whole rfl

theorem accessFrame_noInternalFault {s : State} (sequence : s.SequenceInv) (f : Frame) :
    NoInternalFault (accessFrame f s) := by
  unfold accessFrame
  split
  · exact exec_noInternalFault sequence _
  · unfold refuseFrame
    split
    · exact acceptCommand_noInternalFault sequence _
    all_goals exact .refused _

/-- Where only the track under a head waits for a flush, its disc takes the next chunk (20_memory.md R77). -/
theorem writePulses_taken {s : State} (flush : s.FlushInv) (n : DriveId) (w : Slots) (k : Nat) :
    writePulses n w k s ≠ none := by
  unfold writePulses
  split
  · exact Option.some_ne_none _
  · next d there =>
    split
    · exact Option.some_ne_none _
    · rw [Disc.writePulses, if_pos (flush.under_head n d there)]
      exact Option.some_ne_none _

theorem emit_noInternalFault {s : State} (flush : s.FlushInv) (n : DriveId) (k : Nat) :
    NoInternalFault (emit n k s) := by
  unfold emit
  dsimp only
  split
  · exact .next _
  · unfold handOver
    split
    case h_1 refused => exact absurd refused (writePulses_taken ((encodeNext_sameWorld k s).quiet.flush flush) n _ k)
    case h_2 => exact .next _

theorem onRotation_noInternalFault {s : State} (flush : s.FlushInv) (n : DriveId) :
    NoInternalFault (onRotation n s) := by
  have chunk (w : Slots) : NoInternalFault (onPulses n w 32 (delivering n s)) := by
    unfold onPulses
    dsimp only
    split
    · split
      · exact emit_noInternalFault ((sampleIndex_quiet n _).flush ((delivering_quiet n s).flush flush)) n 32
      · exact .next _
    · exact .next _
  by_cases empty : trackLen s.cfg (s.disc n) (s.drive n).side (s.drive n).phys = 0
  · rw [onRotation_noWords empty]
    exact .next _
  · rw [onRotation_word empty]
    have taken := chunk (deliveredWord n s).1
    unfold delivering at taken
    cases r : onPulses n (deliveredWord n s).1 32 (rearmRotation n (deliveredWord n s).2) with
    | next u => exact .next _
    | fault e => rw [r] at taken; exact taken
    | refused e => exact .refused _

theorem onTimer_noInternalFault {s : State} (unarmed : s.timer = none) : NoInternalFault (onTimer s) := by
  unfold onTimer
  split
  · exact .next _
  · split
    · split
      · exact ⟨nofun, nofun⟩
      · exact seekStep_noInternalFault unarmed
    · exact .next _
  · exact .next _
  · exact .next _

theorem State.SequenceInv.later {s : State} (sequence : s.SequenceInv) (h : List HostAction) :
    State.SequenceInv { s with host := h } where
  busy_iff := sequence.busy_iff
  line_follows := sequence.line_follows
  no_step_line := sequence.no_step_line
  timer_iff := sequence.timer_iff
  cont_matches := sequence.cont_matches
  gate_on := sequence.gate_on
  selected := sequence.selected
  params_missing := sequence.params_missing

/-- Settles O53: the timer is scheduled only where it is not armed, and a chunk is handed over only to a disc whose other
tracks wait for nothing. -/
theorem internalFaultsAreUnreachable : Obligations.InternalFaultsAreUnreachable := by
  intro s sequence flush
  unfold step
  split
  · exact .next _
  · next rest _ => exact accessFrame_noInternalFault (sequence.later rest) _
  · next rest _ =>
    unfold advanceBy
    split
    · next task a _ =>
      split
      · cases task with
        | timer => exact onTimer_noInternalFault rfl
        | rotation n =>
          show NoInternalFault (onRotation n _)
          refine onRotation_noInternalFault ?_ n
          exact flush.of_drives rfl fun m => by cases m <;> exact ⟨rfl, rfl, rfl⟩
      · exact .next _
    · exact .next _
  · unfold buildDisc
    split
    · split
      · exact .next _
      · exact .refused _
    · exact .refused _
  · unfold changeDisc
    split
    · split
      · exact .next _
      · exact .refused _
    · exact .refused _
  · unfold protectDisc
    split
    · split
      · exact .next _
      · exact .refused _
    · exact .refused _
  · exact .next _

/-! ## What begins to record -/

theorem complete_writes (code : Byte) (s : State) : (complete code s).fsm.writes = false := by
  obtain now | later := Nat.eq_zero_or_pos s.cfg.completionDelay
  · rw [complete_now _ _ now, latch_fsm]
    rfl
  · rw [complete_later _ _ later]
    rfl

theorem countUnload_fsm (s : State) : (countUnload s).fsm = s.fsm := by
  unfold countUnload
  split
  · rfl
  · split
    · exact clearLines_fsm _ _
    · rfl

/-- After an index edge the controller writes only if it wrote before, or if a format begins. -/
theorem onIndexEdge_writes {s : State} (writes : (onIndexEdge s).fsm.writes = true) :
    (s.fsm.writes = true ∧ onIndexEdge s = s) ∨ (s.fsm = .formatWaitIndex ∧ onIndexEdge s = startFormat s) := by
  cases state : s.fsm
  case idle | params =>
    rw [onIndexEdge_unloads (by simp [state]), countUnload_fsm, state] at writes
    exact nomatch writes
  case searchId =>
    rw [onIndexEdge_searchId state] at writes
    split at writes
    · exact absurd writes (ne_true_of_eq_false (complete_writes _ _))
    · rw [show (countIndex s).fsm = s.fsm from rfl, state] at writes
      exact nomatch writes
  case inId | searchData =>
    rw [onIndexEdge_counts (by simp [state]), show (countIndex s).fsm = s.fsm from rfl, state] at writes
    exact nomatch writes
  case formatWaitIndex => exact .inr ⟨rfl, onIndexEdge_formatWaitIndex state⟩
  case formatWrite =>
    rw [onIndexEdge_formatWrite state] at writes ⊢
    split at writes
    · exact absurd writes (ne_true_of_eq_false (complete_writes _ _))
    · next not_done => exact .inl ⟨rfl, if_neg not_done⟩
  case writeData => exact .inl ⟨rfl, onIndexEdge_ignored (by simp [state])⟩
  case seekStep | seekSettle | inData | writeSkipGap2 | completing =>
    rw [onIndexEdge_ignored (by simp [state]), state] at writes
    exact nomatch writes

/-! ## The place that is written -/

/-- Two drives refer to one disc and stand at one place of it. -/
structure SamePlace (a b : Drive) : Prop where
  disc : b.disc = a.disc
  side : b.side = a.side
  phys : b.phys = a.phys
  word : b.word = a.word
  phase : b.phase = a.phase

theorem SamePlace.of_eq {a b : Drive} (same : b = a) : SamePlace a b := by
  subst same
  exact ⟨rfl, rfl, rfl, rfl, rfl⟩

theorem SamePlace.trans {a b c : Drive} (first : SamePlace a b) (second : SamePlace b c) : SamePlace a c :=
  ⟨second.disc.trans first.disc, second.side.trans first.side, second.phys.trans first.phys,
    second.word.trans first.word, second.phase.trans first.phase⟩

theorem delivering_samePlace (n : DriveId) (s : State) : SamePlace (s.drive n) ((delivering n s).drive n) := by
  rw [delivering, rearmRotation_drive, if_pos rfl, deliveredWord_drive]
  exact ⟨rfl, rfl, rfl, rfl, rfl⟩

/-- The gate of a format turns no drive: its side line is as it was. -/
theorem startFormat_samePlace {s : State} {n : DriveId} (lines : s.LinesInv) (current : s.cur = some n) :
    SamePlace (s.drive n) ((startFormat s).drive n) := by
  have side_line : (s.driveOut ||| writeGateLine).getLsbD 5 = s.driveOut.getLsbD 5 := by
    rw [BitVec.getLsbD_or]
    exact Bool.or_false _
  have drive : (startFormat s).drive n = (setDriveOut (s.driveOut ||| writeGateLine) { s with
      fsm := .formatWrite
      wr := { s.wr with
        wseq := formatSequence s.op, fifo := [], hostLeft := 4 * s.op.count, fmtDone := false } }).drive n :=
    drive_congr rfl rfl n
  have before : ({ s with
      fsm := .formatWrite
      wr := { s.wr with
        wseq := formatSequence s.op, fifo := [], hostLeft := 4 * s.op.count, fmtDone := false } } : State).drive n
      = s.drive n := drive_congr rfl rfl n
  rw [drive, setDriveOut_drive, before]
  split
  case isFalse => exact .of_eq rfl
  case isTrue there =>
    have selects : selected (s.driveOut ||| writeGateLine) = some n :=
      (selected_raise _ _ (by decide) (by decide)).trans current
    rw [if_pos selects, facing_same]
    · exact ⟨rfl, rfl, rfl, rfl, rfl⟩
    · rw [side_line, withRotation_side]
      exact lines.side_follows n there current

/-- A chunk that is recorded finds the drive where the rotation found it. -/
theorem sampleIndex_records {s : State} {n : DriveId} (lines : s.LinesInv) (current : s.cur = some n)
    (writes : (sampleIndex n s).fsm.writes = true) :
    (s.fsm.writes = true ∨ s.fsm = .formatWaitIndex) ∧ SamePlace (s.drive n) ((sampleIndex n s).drive n) := by
  have sampled (m : DriveId) : ({ s with lastIndex := s.index n } : State).drive m = s.drive m := drive_congr rfl rfl m
  rw [sampleIndex_eq] at writes ⊢
  split at writes
  case isFalse no_edge =>
    rw [if_neg no_edge]
    exact ⟨.inl writes, .of_eq (sampled n)⟩
  case isTrue edge =>
    rw [if_pos edge]
    rcases onIndexEdge_writes writes with ⟨before, same⟩ | ⟨waits, starts⟩
    · rw [same]
      exact ⟨.inl before, .of_eq (sampled n)⟩
    · rw [starts, ← sampled n]
      exact ⟨.inr waits, startFormat_samePlace
        (lines.congr rfl rfl (fun m => by rw [sampled]) fun m => by rw [sampled]) current⟩

/-! ## The statement about writing -/

/-- Byte `a` of track `phys` of side `sd` of disc `k` is one the head of drive `n` stands over, on an unprotected disc. -/
structure UnderHead (n : DriveId) (s : State) (k : Nat) (sd : Side) (phys a : Nat) : Prop where
  holds : (s.drive n).disc = some k
  writable : s.protectedDisc n = false
  side : sd = (s.drive n).side
  track : phys = (s.drive n).phys
  first : 4 * (s.drive n).word + (s.drive n).phase.bytes ≤ a
  last : a < 4 * (s.drive n).word + (s.drive n).phase.bytes + 4

/-- The place under a head, in another state with the same discs where the drive stands the same. -/
theorem UnderHead.congr {n : DriveId} {s t : State} {k : Nat} {sd : Side} {phys a : Nat}
    (under : UnderHead n t k sd phys a) (discs : SameDiscs s t) (place : SamePlace (s.drive n) (t.drive n)) :
    UnderHead n s k sd phys a := by
  obtain ⟨holds, writable, side, track, first, last⟩ := under
  rw [place.disc] at holds
  rw [discs.protectedDisc] at writable
  rw [place.side] at side
  rw [place.phys] at track
  rw [place.word, place.phase] at first last
  exact ⟨holds, writable, side, track, first, last⟩

/-- Recording writes under the head. -/
theorem writePulses_underHead {n : DriveId} {w : Slots} {s t : State} (written : writePulses n w 32 s = some t)
    {k : Nat} {sd : Side} {phys a : Nat} (differs : t.discByte k sd phys a ≠ s.discByte k sd phys a) :
    UnderHead n s k sd phys a := by
  obtain rfl | ⟨i, d, e, holds, there, writable, recorded, rfl⟩ := writePulses_cases written
  · exact absurd rfl differs
  obtain ⟨rfl, side, track, first, last⟩ := not_not.mp fun outside =>
    differs (discByte_recorded_other there recorded outside)
  refine ⟨holds, ?_, side, track, first, last⟩
  rw [State.protectedDisc, State.disc, holds]
  exact (congrArg (Option.any Disc.writeProtect) there).trans writable

theorem emit_underHead {n : DriveId} {s t : State} (next : emit n 32 s = .next t) {k : Nat} {sd : Side} {phys a : Nat}
    (differs : t.discByte k sd phys a ≠ s.discByte k sd phys a) : UnderHead n s k sd phys a := by
  have encoded := encodeNext_sameWorld 32 s
  have encoded_bytes := encoded.quiet.discs.bytes k sd phys a
  rcases emit_next next with ⟨_, rfl⟩ | ⟨_, v, written, rfl⟩
  · refine absurd ?_ differs
    rw [(complete_quiet _ _).discs.bytes, encoded_bytes]
  · have dropped : Quiet v (v.dropSlots 32) := SameWorld.quiet ⟨rfl, rfl, rfl, rfl, rfl, rfl⟩
    rw [(dropped.trans (endWrite_quiet _)).discs.bytes, ← encoded_bytes] at differs
    exact (writePulses_underHead written differs).congr encoded.quiet.discs (.of_eq (encoded.drive n))

/-- A rotation writes under the head of its drive, which is the current one, while the controller records. -/
theorem onRotation_underHead {n : DriveId} {s t : State} (lines : s.LinesInv) (spins : (s.drive n).spinning = true)
    (next : onRotation n s = .next t) {k : Nat} {sd : Side} {phys a : Nat}
    (differs : t.discByte k sd phys a ≠ s.discByte k sd phys a) :
    s.cur = some n ∧ (s.fsm.writes = true ∨ s.fsm = .formatWaitIndex) ∧ UnderHead n s k sd phys a := by
  have delivered := delivering_quiet n s
  rcases onRotation_next next with rfl | ⟨w, len, u, taken, rfl⟩
  · exact absurd ((rearmRotation_quiet n s).discs.bytes k sd phys a) differs
  rw [(advanceHead_quiet n len u).discs.bytes, ← delivered.discs.bytes] at differs
  rcases onPulses_next taken with rfl | ⟨current, ⟨_, rfl⟩ | ⟨writes, emitted⟩⟩
  · exact absurd rfl differs
  · exact absurd (((sampleIndex_quiet n _).trans (readChunk_quiet _ _ _)).discs.bytes k sd phys a) differs
  · have drawn : (deliveredWord n s).2.LinesInv := by
      rcases (deliveredWord_delivers n s).2 with same | drawn
      · rw [same]
        exact lines
      · rw [drawn]
        exact lines.congr rfl rfl (fun m => by cases m <;> rfl) fun m => by cases m <;> rfl
    have rearmed : (delivering n s).LinesInv :=
      Change.linesInv (Change.rearm n (by rw [deliveredWord_drive]; exact spins)) drawn
    have frame : (delivering n s).fsm = s.fsm ∧ (delivering n s).driveOut = s.driveOut := by
      rcases (deliveredWord_delivers n s).2 with same | drawn
      · rw [delivering, same]
        exact ⟨setDrive_fsm _ _ _, setDrive_driveOut _ _ _⟩
      · rw [delivering, drawn]
        exact ⟨setDrive_fsm _ _ _, setDrive_driveOut _ _ _⟩
    obtain ⟨fsm, port⟩ := frame
    obtain ⟨records, place⟩ := sampleIndex_records rearmed current writes
    rw [← (sampleIndex_quiet n (delivering n s)).discs.bytes] at differs
    rw [fsm] at records
    refine ⟨by rw [State.cur, ← port]; exact current, records, ?_⟩
    exact (emit_underHead emitted differs).congr (delivered.discs.trans (sampleIndex_quiet n _).discs)
      ((delivering_samePlace n s).trans place)

theorem protect_track (on : Bool) (d : Disc) (sd : Side) (phys : Nat) :
    (d.protect on).track sd phys = d.track sd phys := by
  cases sd <;> rfl

/-- A write-protect flag is no recorded slot. -/
theorem protects_sameDiscBytes (j : Nat) (on : Bool) (s : State) (h : List HostAction) :
    SameDiscBytes s { s with host := h, discs := s.discs.modify j (Disc.protect on) } := by
  intro k sd phys a
  have track : ((s.discs.modify j (Disc.protect on))[k]?.bind fun d => d.track sd phys)
      = (s.discs[k]?).bind fun d => d.track sd phys := by
    rw [List.getElem?_modify]
    rcases s.discs[k]? with _ | d
    · rfl
    · show (if j = k then d.protect on else d).track sd phys = d.track sd phys
      split
      · exact protect_track on d sd phys
      · rfl
  unfold State.discByte
  rw [track]

/-- Settles O47: of the events of a step only a rotation writes, and it writes under its head. -/
theorem stepWritesOnlyUnderTheHead : Obligations.StepWritesOnlyUnderTheHead := by
  intro s t lines next no_disc k sd phys a differs
  cases step_event next with
  | rests => exact absurd rfl differs
  | access _ _ i _ _ run => exact absurd ((exec_quietly i _ t run).discs.bytes k sd phys a) differs
  | timer _ _ _ _ run => exact absurd ((onTimer_quietly _ t run).discs.bytes k sd phys a) differs
  | clock => exact absurd rfl differs
  | builds disc rest present => exact absurd present (no_disc disc rest)
  | loads n disc _ _ _ =>
    refine absurd ?_ differs
    unfold State.discByte
    rw [setDrive_discs]
  | protects j on rest _ => exact absurd (protects_sameDiscBytes j on s rest k sd phys a) differs
  | resets => exact absurd ((resetController_quiet _).discs.bytes k sd phys a) differs
  | rotation n due h _ armed run =>
    have spins : (s.drive n).spinning = true := by rw [Drive.spinning, armed]; rfl
    have drive (m : DriveId) : ({ s with host := h, epoch := due.expiry } : State).drive m = s.drive m :=
      drive_congr rfl rfl m
    have lines' : State.LinesInv { s with host := h, epoch := due.expiry } :=
      lines.congr rfl rfl (fun m => congrArg Drive.spinning (drive m)) fun m => congrArg Drive.side (drive m)
    obtain ⟨current, records, under⟩ :=
      onRotation_underHead lines' ((congrArg Drive.spinning (drive n)).trans spins) run differs
    obtain ⟨holds, writable, side, track, first, last⟩ := under.congr (s := s) (.of_drives rfl drive) (.of_eq (drive n))
    exact ⟨n, current, holds, spins, records, writable, side, track, first, last⟩

end Sys2Proof.Machine
end

section
/-! PROOFS. The scheduler (40_environment.md R120 to R124): arming and cancelling, the task that fires next, and an
advance of time. -/

namespace Sys2Proof.Machine

/-! ## Arming and cancelling -/

theorem reschedule_task_same (task : Task) (d : Nat) (s : State) :
    (s.reschedule task d).task task = some (s.armed d) := by
  cases task with
  | timer => rfl
  | rotation n => cases n <;> rfl

theorem reschedule_task_other {task other : Task} (apart : other ≠ task) (d : Nat) (s : State) :
    (s.reschedule task d).task other = s.task other := by
  cases task with
  | timer =>
    cases other with
    | timer => exact absurd rfl apart
    | rotation m => cases m <;> rfl
  | rotation n =>
    cases other with
    | timer => cases n <;> rfl
    | rotation m => cases n <;> cases m <;> first | rfl | exact absurd rfl apart

theorem reschedule_nextSeq (task : Task) (d : Nat) (s : State) : (s.reschedule task d).nextSeq = s.nextSeq + 1 := by
  cases task with
  | timer => rfl
  | rotation n => cases n <;> rfl

theorem cancel_task_same (task : Task) (s : State) : (s.cancel task).task task = none := by
  cases task with
  | timer => rfl
  | rotation n => cases n <;> rfl

theorem cancel_task_other {task other : Task} (apart : other ≠ task) (s : State) :
    (s.cancel task).task other = s.task other := by
  cases task with
  | timer =>
    cases other with
    | timer => exact absurd rfl apart
    | rotation m => cases m <;> rfl
  | rotation n =>
    cases other with
    | timer => cases n <;> rfl
    | rotation m => cases n <;> cases m <;> first | rfl | exact absurd rfl apart

theorem schedule_of_armed {task : Task} {s : State} (armed : s.task task ≠ none) (d : Nat) :
    s.schedule task d = .fault .doubleSchedule := by
  obtain ⟨a, holds⟩ := Option.ne_none_iff_exists'.mp armed
  rw [State.schedule, holds]

theorem schedule_of_unarmed {task : Task} {s : State} (unarmed : s.task task = none) (d : Nat) :
    s.schedule task d = .next (s.reschedule task d) := by
  rw [State.schedule, unarmed]

/-! ## The order of firing -/

/-- `a` does not come after `b`: by expiry, and for equal expiries by the order of scheduling (40_environment.md
R124). -/
def Armed.notAfter (a b : Armed) : Prop := a.expiry < b.expiry ∨ (a.expiry = b.expiry ∧ a.seq ≤ b.seq)

theorem Armed.before_iff (a b : Armed) :
    a.before b = true ↔ a.expiry < b.expiry ∨ (a.expiry = b.expiry ∧ a.seq < b.seq) := by
  simp [Armed.before]

theorem Armed.notAfter_refl (a : Armed) : a.notAfter a := .inr ⟨rfl, Nat.le_refl _⟩

theorem Armed.notAfter_trans {a b c : Armed} (first : a.notAfter b) (second : b.notAfter c) : a.notAfter c := by
  unfold Armed.notAfter at *
  omega

theorem Armed.notAfter_of_before {a b : Armed} (before : a.before b = true) : a.notAfter b := by
  rw [Armed.before_iff] at before
  unfold Armed.notAfter
  omega

theorem Armed.notAfter_of_not_before {a b : Armed} (not_before : ¬ b.before a = true) : a.notAfter b := by
  rw [Armed.before_iff] at not_before
  unfold Armed.notAfter
  omega

/-- `x` comes first among the armed tasks `p` lists. -/
def FirstOf (x : Task × Armed) (p : Option (Task × Armed)) : Prop := ∀ y, p = some y → x.2.notAfter y.2

theorem earlier_none {a b : Option (Task × Armed)} (nothing : earlier a b = none) : a = none ∧ b = none := by
  unfold earlier at nothing
  split at nothing
  · exact ⟨rfl, nothing⟩
  · exact ⟨nothing, rfl⟩
  · split at nothing <;> exact nomatch nothing

theorem earlier_first {a b : Option (Task × Armed)} {x : Task × Armed} (first : earlier a b = some x) :
    FirstOf x a ∧ FirstOf x b := by
  unfold earlier at first
  unfold FirstOf
  split at first
  · subst first
    refine ⟨nofun, fun y same => ?_⟩
    obtain rfl := Option.some.inj same
    exact x.2.notAfter_refl
  · subst first
    refine ⟨fun y same => ?_, nofun⟩
    obtain rfl := Option.some.inj same
    exact x.2.notAfter_refl
  · next u v =>
    split at first
    case isTrue before =>
      obtain rfl := Option.some.inj first
      refine ⟨fun y same => ?_, fun y same => ?_⟩ <;> obtain rfl := Option.some.inj same
      · exact Armed.notAfter_of_before before
      · exact v.2.notAfter_refl
    case isFalse not_before =>
      obtain rfl := Option.some.inj first
      refine ⟨fun y same => ?_, fun y same => ?_⟩ <;> obtain rfl := Option.some.inj same
      · exact u.2.notAfter_refl
      · exact Armed.notAfter_of_not_before not_before

/-- What comes before the first of two comes before both. -/
theorem FirstOf.of_earlier {x : Task × Armed} {a b : Option (Task × Armed)} (first : FirstOf x (earlier a b)) :
    FirstOf x a ∧ FirstOf x b := by
  cases least : earlier a b with
  | none =>
    obtain ⟨rfl, rfl⟩ := earlier_none least
    exact ⟨nofun, nofun⟩
  | some y =>
    obtain ⟨before_a, before_b⟩ := earlier_first least
    have x_first : x.2.notAfter y.2 := first y least
    exact ⟨fun z same => Armed.notAfter_trans x_first (before_a z same),
      fun z same => Armed.notAfter_trans x_first (before_b z same)⟩

theorem task_of_nextTask {s : State} {task : Task} {a : Armed} (next : s.nextTask = some (task, a)) :
    s.task task = some a := by
  have armed := nextTask_armed next
  cases task <;> exact armed

theorem nextTask_notAfter {s : State} {task other : Task} {a b : Armed} (next : s.nextTask = some (task, a))
    (armed : s.task other = some b) : a.notAfter b := by
  obtain ⟨timer, rotations⟩ := earlier_first next
  obtain ⟨zero, one⟩ := rotations.of_earlier
  cases other with
  | timer => exact timer (.timer, b) (Option.map_eq_some_iff.mpr ⟨b, armed, rfl⟩)
  | rotation n =>
    cases n with
    | d0 => exact zero (.rotation .d0, b) (Option.map_eq_some_iff.mpr ⟨b, armed, rfl⟩)
    | d1 => exact one (.rotation .d1, b) (Option.map_eq_some_iff.mpr ⟨b, armed, rfl⟩)

theorem nextTask_eq_none_iff (s : State) : s.nextTask = none ↔ ∀ task, s.task task = none := by
  refine ⟨fun nothing task => ?_, fun unarmed => ?_⟩
  · obtain ⟨timer, rotations⟩ := nextTask_none nothing
    cases task with
    | timer => exact timer
    | rotation n => exact rotations n
  · cases next : s.nextTask with
    | none => rfl
    | some x => exact absurd ((unarmed x.1).symm.trans (task_of_nextTask next)) nofun

/-- Settles O51: the laws of arming, and `nextTask_notAfter`. -/
theorem nextTaskIsTheEarliest : Obligations.NextTaskIsTheEarliest := by
  refine ⟨fun task d s t t_is => ?arming, fun s => ⟨nextTask_eq_none_iff s, ?_, fun task a next =>
    ⟨task_of_nextTask next, ?_, fun other b armed => nextTask_notAfter next armed⟩⟩⟩
  case arming =>
    subst t_is
    exact ⟨fun armed => schedule_of_armed armed d, fun unarmed => schedule_of_unarmed unarmed d,
      reschedule_task_same task d s, reschedule_nextSeq task d s, cancel_task_same task s,
      fun other apart => ⟨reschedule_task_other apart d s, cancel_task_other apart s⟩⟩
  · rw [State.ticksUntilNextTask, Option.map_eq_none_iff]
    exact nextTask_eq_none_iff s
  · rw [State.ticksUntilNextTask, next]
    rfl

/-! ## Time in an event -/

/-- The host's queue and the time are as they were. -/
def SameTime (s t : State) : Prop := t.host = s.host ∧ t.epoch = s.epoch

theorem Quiet.sameTime {s t : State} (quiet : Quiet s t) : SameTime s t := ⟨quiet.host, quiet.epoch⟩

theorem SameTime.trans {s t u : State} (first : SameTime s t) (second : SameTime t u) : SameTime s u :=
  ⟨second.1.trans first.1, second.2.trans first.2⟩

theorem emit_sameTime {n : DriveId} {k : Nat} {s t : State} (next : emit n k s = .next t) : SameTime s t := by
  have encoded := (encodeNext_sameWorld k s).quiet.sameTime
  rcases emit_next next with ⟨_, rfl⟩ | ⟨_, v, written, rfl⟩
  · exact encoded.trans (complete_quiet _ _).sameTime
  · have recorded : SameTime (encodeNext k s).1 v := by
      rw [writePulses_frame written]
      exact ⟨rfl, rfl⟩
    have dropped : Quiet v (v.dropSlots k) := SameWorld.quiet ⟨rfl, rfl, rfl, rfl, rfl, rfl⟩
    exact encoded.trans (recorded.trans (dropped.trans (endWrite_quiet _)).sameTime)

theorem onRotation_sameTime {n : DriveId} {s t : State} (next : onRotation n s = .next t) : SameTime s t := by
  rcases onRotation_next next with rfl | ⟨w, len, u, taken, rfl⟩
  · exact (rearmRotation_quiet n s).sameTime
  have delivered := (delivering_quiet n s).sameTime
  have turned := (advanceHead_quiet n len u).sameTime
  rcases onPulses_next taken with rfl | ⟨_, ⟨_, rfl⟩ | ⟨_, emitted⟩⟩
  · exact delivered.trans turned
  · exact delivered.trans (((sampleIndex_quiet n _).trans (readChunk_quiet _ _ _)).sameTime.trans turned)
  · exact delivered.trans ((sampleIndex_quiet n _).sameTime.trans ((emit_sameTime emitted).trans turned))

theorem fire_time {task : Task} {a : Armed} {s t : State} (next : fire task a s = .next t) :
    t.host = s.host ∧ t.epoch = a.expiry := by
  cases task with
  | timer => exact (onTimer_quietly _ t next).sameTime
  | rotation n => exact onRotation_sameTime (n := n) next

/-! ## A rotation and its own timer -/

theorem cancel_rotation_disc (n : DriveId) (s : State) : (s.cancel (.rotation n)).disc n = s.disc n := by
  cases n <;> rfl

theorem cancel_rotation_drive (n : DriveId) (s : State) :
    (s.cancel (.rotation n)).drive n = (s.drive n).withRotation none := by
  cases n <;> rfl

theorem cancel_rotation_cfg (n : DriveId) (s : State) : (s.cancel (.rotation n)).cfg = s.cfg := by cases n <;> rfl

theorem cancel_rotation_draws (n : DriveId) (s : State) : (s.cancel (.rotation n)).draws = s.draws := by
  cases n <;> rfl

theorem cancel_rotation_draw (n : DriveId) (s : State) (k : Nat) :
    ({ s.cancel (.rotation n) with draws := k } : State) = State.cancel (.rotation n) { s with draws := k } := by
  cases n <;> rfl

/-- The word delivered does not depend on the rotation timer. -/
theorem deliveredWord_cancel (n : DriveId) (s : State) :
    deliveredWord n (s.cancel (.rotation n))
      = ((deliveredWord n s).1, (deliveredWord n s).2.cancel (.rotation n)) := by
  unfold deliveredWord drawWord weakWord
  rw [cancel_rotation_disc, cancel_rotation_drive, withRotation_side, withRotation_phys, withRotation_word,
    cancel_rotation_draws, cancel_rotation_draw]
  split
  · rfl
  · split
    · rfl
    · split
      · dsimp only
        split <;> rfl
      · rfl

theorem rearmRotation_cancel (n : DriveId) (s : State) :
    rearmRotation n (s.cancel (.rotation n)) = rearmRotation n s := by
  cases n <;> rfl

/-- A rotation arms its timer again, whether or not it was disarmed for it (40_environment.md R131). -/
theorem onRotation_cancel (n : DriveId) (s : State) : onRotation n s = onRotation n (s.cancel (.rotation n)) := by
  unfold onRotation
  rw [deliveredWord_cancel, cancel_rotation_disc, cancel_rotation_drive, cancel_rotation_cfg, rearmRotation_cancel]
  dsimp only
  rw [rearmRotation_cancel]
  rfl

/-! ## An advance -/

theorem step_advance {s : State} {ticks : Nat} {rest : List HostAction} (host : s.host = .advance ticks :: rest) :
    step s = advanceBy ticks rest s := by rw [step, host]

theorem advanceBy_due {s : State} {task : Task} {a : Armed} {ticks : Nat} (first : s.nextTask = some (task, a))
    (due : a.expiry ≤ s.epoch + ticks) (rest : List HostAction) :
    advanceBy ticks rest s = fire task a { s with host := .advance (s.epoch + ticks - a.expiry) :: rest } := by
  rw [advanceBy, first]
  exact if_pos due

theorem advanceBy_idle {s : State} {ticks : Nat}
    (idle : ∀ task a, s.nextTask = some (task, a) → s.epoch + ticks < a.expiry) (rest : List HostAction) :
    advanceBy ticks rest s = .next { s with epoch := s.epoch + ticks, host := rest } := by
  unfold advanceBy
  split
  · next task a first => exact if_neg (Nat.not_le.mpr (idle task a first))
  · rfl

/-- Settles O52: the two cases of an advance; an event leaves the queue and the time it fires at. -/
theorem advanceFiresTheDueTaskAndEndsOnItsTick : Obligations.AdvanceFiresTheDueTaskAndEndsOnItsTick := by
  refine ⟨fun s ticks rest host => ?advance, fun a s => ⟨rfl, fun n => ?rotation⟩⟩
  case advance =>
    rw [step_advance host]
    refine ⟨fun task a first due => advanceBy_due first due rest, fun idle => advanceBy_idle idle rest,
      fun t next => ?_⟩
    by_cases due : ∃ task a, s.nextTask = some (task, a) ∧ a.expiry ≤ s.epoch + ticks
    · obtain ⟨task, a, first, due⟩ := due
      rw [advanceBy_due first due] at next
      obtain ⟨queue, epoch⟩ := fire_time next
      exact .inr ⟨_, queue, by rw [epoch]; omega⟩
    · rw [advanceBy_idle fun task a first => Nat.not_le.mp fun at_hand => due ⟨task, a, first, at_hand⟩] at next
      cases next
      exact .inl ⟨rfl, rfl⟩
  case rotation => exact onRotation_cancel n _

end Sys2Proof.Machine
end

section
/-! PROOFS. The controller's sequencing through every operation (43_command_protocol.md R205, 10_state.md R41, 44_seek.md
R246, 47_write_commands.md R340). -/

namespace Sys2Proof.Machine

/-! ## States of the sequencing -/

/-- The sequencing is a property of the flags, the port, the FSM, the timer and the parameters still to come. -/
structure SameSequence (s t : State) : Prop where
  busy : t.busy = s.busy
  fsm : t.fsm = s.fsm
  port : t.driveOut = s.driveOut
  timer : t.timer = s.timer
  cont : t.cont = s.cont
  params : t.params = s.params
  nexp : t.nexp = s.nexp

theorem State.SequenceInv.congr {s t : State} (sequence : s.SequenceInv) (same : SameSequence s t)
    (line : t.intLine = t.irq) : t.SequenceInv where
  busy_iff := by rw [same.busy, same.fsm]; exact sequence.busy_iff
  line_follows := line
  no_step_line := by rw [same.port]; exact sequence.no_step_line
  timer_iff := by rw [same.timer, same.fsm]; exact sequence.timer_iff
  cont_matches := by rw [same.fsm, same.cont]; exact sequence.cont_matches
  gate_on := by rw [same.fsm, State.writeGate, same.port]; exact sequence.gate_on
  selected := by rw [same.fsm, State.cur, same.port]; exact sequence.selected
  params_missing := by rw [same.fsm, same.params, same.nexp]; exact sequence.params_missing

/-- What a running drive command keeps whatever its FSM state. -/
structure Underway (s : State) : Prop where
  busy : s.busy = true
  line : s.intLine = s.irq
  no_step_line : s.driveOut.getLsbD 1 = false
  selected : s.cur.isSome = true

theorem State.SequenceInv.underway {s : State} (sequence : s.SequenceInv) (running : s.fsm.running = true) :
    Underway s where
  busy := by
    rw [sequence.busy_iff]
    refine decide_eq_true fun idle => ?_
    rw [idle] at running
    exact nomatch running
  line := sequence.line_follows
  no_step_line := sequence.no_step_line
  selected := sequence.selected running

/-- The idle controller. -/
theorem sequenceInv_of_idle {s : State} (idle : s.fsm = .idle) (not_busy : s.busy = false) (line : s.intLine = s.irq)
    (no_step_line : s.driveOut.getLsbD 1 = false) (unarmed : s.timer = none) : s.SequenceInv where
  busy_iff := by rw [not_busy, idle]; rfl
  line_follows := line
  no_step_line := no_step_line
  timer_iff := by rw [unarmed, idle]; rfl
  cont_matches := by rw [idle]; rfl
  gate_on writes := by rw [idle] at writes; exact nomatch writes
  selected running := by rw [idle] at running; exact nomatch running
  params_missing collecting := by rw [idle] at collecting; exact nomatch collecting

theorem Fsm.ne_of_running {f : Fsm} (running : f.running = true) : f ≠ .idle ∧ f ≠ .params := by
  cases f <;> first | exact absurd running (by decide) | exact ⟨nofun, nofun⟩

theorem contMatches_of_untimed {f : Fsm} (untimed : f.timed = false) (c : Cont) : contMatches f c = true := by
  cases f <;> first | exact absurd untimed (by decide) | rfl

/-- A running command in a state that waits for no timer. -/
theorem Underway.untimed {s : State} (underway : Underway s) (running : s.fsm.running = true)
    (untimed : s.fsm.timed = false) (unarmed : s.timer = none) (gate : s.fsm.writes = true → s.writeGate = true) :
    s.SequenceInv where
  busy_iff := underway.busy.trans (decide_eq_true (Fsm.ne_of_running running).1).symm
  line_follows := underway.line
  no_step_line := underway.no_step_line
  timer_iff := by rw [unarmed, untimed]; rfl
  cont_matches := contMatches_of_untimed untimed _
  gate_on := gate
  selected _ := underway.selected
  params_missing collecting := absurd collecting (Fsm.ne_of_running running).2

theorem Fsm.running_of_timed {f : Fsm} (timed : f.timed = true) : f.running = true ∧ f.writes = false := by
  cases f <;> first | exact absurd timed (by decide) | exact ⟨rfl, rfl⟩

/-- A running command in a state that waits for the timer. -/
theorem Underway.timed {s : State} (underway : Underway s) (timed : s.fsm.timed = true) (armed : s.timer.isSome = true)
    (cont : contMatches s.fsm s.cont = true) : s.SequenceInv where
  busy_iff := underway.busy.trans (decide_eq_true (Fsm.ne_of_running (Fsm.running_of_timed timed).1).1).symm
  line_follows := underway.line
  no_step_line := underway.no_step_line
  timer_iff := armed.trans timed.symm
  cont_matches := cont
  gate_on writes := absurd writes (ne_true_of_eq_false (Fsm.running_of_timed timed).2)
  selected _ := underway.selected
  params_missing collecting := absurd collecting (Fsm.ne_of_running (Fsm.running_of_timed timed).1).2

/-! ## The port -/

theorem Underway.congr {s t : State} (underway : Underway s) (busy : t.busy = s.busy) (line : t.intLine = t.irq)
    (port : t.driveOut = s.driveOut) : Underway t where
  busy := busy.trans underway.busy
  line := line
  no_step_line := by rw [port]; exact underway.no_step_line
  selected := by rw [State.cur, port]; exact underway.selected

/-- A write of the port that keeps a drive selected. -/
theorem Underway.setDriveOut {s : State} (underway : Underway s) {v : Byte} (selects : (Machine.selected v).isSome = true) :
    Underway (Machine.setDriveOut v s) where
  busy := (setDriveOut_busy v s).trans underway.busy
  line := by rw [setDriveOut_intLine, setDriveOut_irq]; exact underway.line
  no_step_line := setDriveOut_noStep v s
  selected := by rw [setDriveOut_cur]; exact selects

theorem Underway.clearLines {s : State} (underway : Underway s) {m : Byte} (h6 : m.getLsbD 6 = false)
    (h7 : m.getLsbD 7 = false) : Underway (Machine.clearLines m s) :=
  underway.setDriveOut (by rw [selected_clear _ _ h6 h7]; exact underway.selected)

theorem Underway.raiseLines {s : State} (underway : Underway s) {m : Byte} (h6 : m.getLsbD 6 = false)
    (h7 : m.getLsbD 7 = false) : Underway (Machine.raiseLines m s) :=
  underway.setDriveOut (by rw [selected_raise _ _ h6 h7]; exact underway.selected)

theorem selectFromCommand_noStep {s : State} (no_step_line : s.driveOut.getLsbD 1 = false) :
    (selectFromCommand s).driveOut.getLsbD 1 = false := by
  unfold selectFromCommand
  split
  · exact no_step_line
  · exact setDriveOut_noStep _ _

/-! ## Completion -/

theorem startUnload_noStep {s : State} (no_step_line : s.driveOut.getLsbD 1 = false) :
    (startUnload s).driveOut.getLsbD 1 = false := by
  unfold startUnload
  split
  · exact no_step_line
  · split
    · exact setDriveOut_noStep _ _
    · exact no_step_line

theorem latch_sequenceInv (code : Byte) {s : State} (no_step_line : s.driveOut.getLsbD 1 = false)
    (unarmed : s.timer = none) : (latch code s).SequenceInv :=
  sequenceInv_of_idle (latch_fsm code s) (latch_busy code s) ((latch_intLine code s).trans (latch_irq code s).symm)
    (startUnload_noStep (by exact no_step_line)) ((latch_timer code s).trans unarmed)

/-- A running command ends in the idle state, or in the completion delay. -/
theorem complete_sequenceInv (code : Byte) {s : State} (underway : Underway s) : (complete code s).SequenceInv := by
  have gate_off : Underway (clearLines writeGateLine s) := underway.clearLines (by decide) (by decide)
  obtain now | later := Nat.eq_zero_or_pos s.cfg.completionDelay
  · rw [complete_now code s now]
    exact latch_sequenceInv _ gate_off.no_step_line rfl
  · rw [complete_later code s later]
    generalize clearLines writeGateLine s = u at gate_off
    generalize completionCode code _ = latched
    exact (gate_off.congr (t := u.disarm.waitToLatch latched) rfl gate_off.line rfl).timed rfl rfl rfl

/-! ## Seeking -/

theorem postSeek_sequenceInv {s : State} (underway : Underway s) (unarmed : s.timer = none) :
    (postSeek s).SequenceInv := by
  unfold postSeek
  split
  · exact complete_sequenceInv _ underway
  · split
    · have waits : Underway { s with fsm := .formatWaitIndex } := underway.congr rfl underway.line rfl
      exact waits.untimed rfl rfl unarmed nofun
    · exact (underway.congr (t := beginSearch s) rfl underway.line rfl).untimed rfl rfl unarmed nofun

theorem SeekOutcome.sequenceInv {n : DriveId} {s t : State} (outcome : SeekOutcome n s t) (underway : Underway s)
    (seeking : s.fsm = .seekStep) (unarmed : s.timer = none) : t.SequenceInv := by
  cases outcome with
  | steps =>
    obtain ⟨_, _, _, moved⟩ := seekTrack_frame n s.seek.dirIn s
    refine (underway.congr (t := stepIssued n s) ?_ ?_ ?_).timed ?_ rfl ?_ <;>
      rw [stepIssued, moved]
    · exact underway.line
    · rw [seeking]
      rfl
    · rw [seeking]
      rfl
  | waits => exact (underway.congr (t := settlingFor _ (landed n s)) rfl underway.line rfl).timed rfl rfl rfl
  | goesOn => exact postSeek_sequenceInv (underway.congr (t := landed n s) rfl underway.line rfl) unarmed

theorem headDown_underway {s : State} (underway : Underway s) : Underway (headDown s) :=
  Underway.raiseLines (s := { s with
    deletedSeen := false, unload := none, seek := { s.seek with newlyLoaded := !s.headLoaded } })
    (underway.congr rfl underway.line rfl) (by decide) (by decide)

theorem seekPlanned_underway {n : DriveId} {s : State} (underway : Underway s) : Underway (seekPlanned n s) := by
  have directed : Underway (setDriveOut (directed (planSeek n s).dirIn s.driveOut) { s with seek := planSeek n s }) := by
    refine Underway.setDriveOut (s := { s with seek := planSeek n s }) (underway.congr rfl underway.line rfl) ?_
    rw [selected_directed]
    exact underway.selected
  exact directed.congr rfl directed.line rfl

theorem Starts.sequenceInv {op : Op} {n : DriveId} {s t : State} (starts : Starts op n s t) (underway : Underway s)
    (unarmed : s.timer = none) : t.SequenceInv := by
  have down := headDown_underway underway
  cases starts with
  | notReady => exact complete_sequenceInv _ down
  | writeProtected => exact complete_sequenceInv _ down
  | seeks _ outcome =>
    exact outcome.sequenceInv (seekPlanned_underway down) rfl
      ((seekPlanned_timer n _).trans ((headDown_timer s).trans unarmed))

/-! ## The bus -/

/-- A dispatched command, its select bits applied, leaves the sequencing in order. -/
theorem Runs.sequenceInv {op : Op} {s t : State} (runs : Runs op s t) (busy : s.busy = true)
    (line : s.intLine = s.irq) (no_step_line : s.driveOut.getLsbD 1 = false) (unarmed : s.timer = none) :
    t.SequenceInv := by
  cases runs with
  | answers => exact sequenceInv_of_idle rfl rfl line no_step_line unarmed
  | setsRegisters => exact sequenceInv_of_idle rfl rfl line no_step_line unarmed
  | writesPort v =>
    refine sequenceInv_of_idle rfl rfl ?_ (setDriveOut_noStep v s) ((setDriveOut_timer v s).trans unarmed)
    exact (setDriveOut_intLine v s).trans (line.trans (setDriveOut_irq v s).symm)
  | starts n _ _ current starts =>
    exact starts.sequenceInv ⟨busy, line, no_step_line, Option.isSome_iff_exists.mpr ⟨n, current⟩⟩ unarmed

theorem acceptCommand_sequenceInv {v : Byte} {s t : State} (next : acceptCommand v s = .next t)
    (sequence : s.SequenceInv) : t.SequenceInv := by
  obtain ⟨not_busy, op, _, ⟨params, rfl⟩ | ⟨rfl, answer, rfl⟩⟩ := acceptCommand_next next
  all_goals have unarmed := sequence.unarmed (by rw [sequence.idle not_busy]; rfl)
  · have collecting : (commandAccepted v op s).fsm = .params := if_neg params
    exact {
      busy_iff := by rw [collecting]; rfl
      line_follows := sequence.line_follows
      no_step_line := sequence.no_step_line
      timer_iff := by rw [collecting]; exact congrArg Option.isSome unarmed
      cont_matches := by rw [collecting]; rfl
      gate_on := fun writes => by rw [collecting] at writes; exact nomatch writes
      selected := fun running => by rw [collecting] at running; exact nomatch running
      params_missing := fun _ => Nat.pos_of_ne_zero params }
  · have frame := selectFromCommand_frame (commandAccepted v .readStatus s)
    have no_step : (selectFromCommand (commandAccepted v .readStatus s)).driveOut.getLsbD 1 = false :=
      selectFromCommand_noStep sequence.no_step_line
    refine sequenceInv_of_idle rfl rfl ?_ no_step ?_ <;> obtain ⟨_, _, _, _, _, _, selection⟩ := frame <;>
      rw [selection]
    · exact sequence.line_follows
    · exact unarmed

theorem acceptParameter_sequenceInv {v : Byte} {s t : State} (next : acceptParameter v s = .next t)
    (sequence : s.SequenceInv) : t.SequenceInv := by
  obtain ⟨collecting, ⟨more, rfl⟩ | ⟨_, op, _, runs⟩⟩ := acceptParameter_next next
  · have missing := sequence.params_missing collecting
    have still : (collected v s).params.length < (collected v s).nexp := by
      show (s.params ++ [v]).length < s.nexp
      rw [List.length_append, List.length_singleton]
      omega
    exact ⟨sequence.busy_iff, sequence.line_follows, sequence.no_step_line, sequence.timer_iff, sequence.cont_matches,
      sequence.gate_on, sequence.selected, fun _ => still⟩
  · have no_step : (selectFromCommand (collected v s)).driveOut.getLsbD 1 = false :=
      selectFromCommand_noStep sequence.no_step_line
    refine runs.sequenceInv ?_ ?_ no_step ?_ <;>
      obtain ⟨_, _, _, _, _, _, selection⟩ := selectFromCommand_frame (collected v s) <;> rw [selection]
    · exact sequence.busy_iff.trans (by rw [collecting]; rfl)
    · exact sequence.line_follows
    · exact sequence.unarmed (by rw [collecting]; rfl)

theorem resetController_sequenceInv (s : State) : (resetController s).SequenceInv :=
  sequenceInv_of_idle (setDriveOut_fsm _ _) (setDriveOut_busy _ _) rfl (setDriveOut_noStep _ _) (setDriveOut_timer _ _)

theorem bus_sequence : BusLeads State.SequenceInv State.SequenceInv where
  command _ _ _ := acceptCommand_sequenceInv
  parameter _ _ _ := acceptParameter_sequenceInv
  parameters _ _ _ := acceptParameter_sequenceInv
  reset s _ := resetController_sequenceInv s
  read _ _ _ sequence := sequence.congr ⟨rfl, rfl, rfl, rfl, rfl, rfl, rfl⟩ sequence.line_follows
  result _ sequence := sequence.congr ⟨rfl, rfl, rfl, rfl, rfl, rfl, rfl⟩ rfl
  data _ _ _ sequence := sequence.congr ⟨rfl, rfl, rfl, rfl, rfl, rfl, rfl⟩ rfl

/-! ## The timer -/

/-- The timer fires only in the states that wait for it, each for its own purpose (10_state.md R41). -/
theorem onTimer_sequenceInv {s t : State} {e : Nat} {h : List HostAction} (sequence : s.SequenceInv)
    (armed : s.timer.isSome = true) (next : onTimer { s with host := h, epoch := e, timer := none } = .next t) :
    t.SequenceInv := by
  have timed : s.fsm.timed = true := sequence.timer_iff.symm.trans armed
  have before := sequence.underway (Fsm.running_of_timed timed).1
  have underway : Underway { s with host := h, epoch := e, timer := none } := before.congr rfl before.line rfl
  have matching := sequence.cont_matches
  unfold onTimer at next
  dsimp only at next
  split at next
  case h_1 cont =>
    rw [cont] at matching
    cases state : s.fsm <;> rw [state] at timed matching <;>
      first | exact absurd timed (by decide) | exact absurd matching (by decide)
  case h_2 cont =>
    have seeking : s.fsm = .seekStep := by
      rw [cont] at matching
      cases state : s.fsm <;> rw [state] at timed matching <;>
        first | rfl | exact absurd timed (by decide) | exact absurd matching (by decide)
    rw [if_pos seeking] at next
    split at next
    · exact nomatch next
    · exact (seekStep_outcome next).sequenceInv underway seeking rfl
  case h_3 =>
    cases next
    exact postSeek_sequenceInv underway rfl
  case h_4 code _ =>
    cases next
    exact latch_sequenceInv code before.no_step_line rfl

/-! ## A chunk -/

theorem Fsm.reads_class {f : Fsm} (reads : f.reads = true) :
    f.running = true ∧ f.timed = false ∧ f.writes = false := by
  cases f <;> first | exact absurd reads (by decide) | exact ⟨rfl, rfl, rfl⟩

/-- A receiving command is underway, and nothing waits for the timer. -/
theorem State.SequenceInv.receiving {s : State} (sequence : s.SequenceInv) (reads : s.fsm.reads = true) :
    Underway s ∧ s.timer = none := by
  obtain ⟨running, untimed, _⟩ := Fsm.reads_class reads
  exact ⟨sequence.underway running, sequence.unarmed untimed⟩

theorem Received.sequenceInv {s t : State} (received : Received s t) (sequence : s.SequenceInv) : t.SequenceInv := by
  have moves := received.moves
  cases received with
  | mk f sr n o c ds ic sk d q i l _ asks =>
    have line : l = i := by
      obtain ⟨_, rfl, rfl⟩ | ⟨_, rfl, rfl, _⟩ := asks
      · exact sequence.line_follows
      · rfl
    cases reads : s.fsm.reads with
    | false => exact sequence.congr ⟨rfl, moves.1 reads, rfl, rfl, rfl, rfl, rfl⟩ line
    | true =>
      obtain ⟨underway, unarmed⟩ := sequence.receiving reads
      obtain ⟨running, untimed, not_writing⟩ := Fsm.reads_class (moves.2.1 reads)
      refine (underway.congr ?_ ?_ ?_).untimed running untimed unarmed fun writes =>
        absurd (not_writing.symm.trans writes) (by decide)
      exacts [rfl, line, rfl]

theorem Slotted.sequenceInv {s t : State} (slotted : Slotted s t) (sequence : s.SequenceInv) : t.SequenceInv := by
  cases slotted with
  | going _ received => exact received.sequenceInv sequence
  | ended code u _ reads received _ after =>
    obtain ⟨underway, _⟩ := (received.sequenceInv sequence).receiving (received.moves.2.1 reads)
    exact after.sequenceInv (complete_sequenceInv code underway)

/-- The gate is raised and the first byte asked for: a recording begins. -/
theorem recording_sequenceInv {s u : State} (underway : Underway s) (unarmed : s.timer = none)
    (writes : s.fsm.writes = true) (starts : u = request (raiseLines writeGateLine s)) : u.SequenceInv := by
  subst starts
  have raised : Underway (raiseLines writeGateLine s) := underway.raiseLines (by decide) (by decide)
  have fsm : (request (raiseLines writeGateLine s)).fsm = s.fsm := setDriveOut_fsm _ _
  obtain ⟨running, untimed⟩ : s.fsm.running = true ∧ s.fsm.timed = false := by
    cases state : s.fsm <;> rw [state] at writes <;> first | exact absurd writes (by decide) | exact ⟨rfl, rfl⟩
  have asked : Underway (request (raiseLines writeGateLine s)) := by
    refine raised.congr ?_ ?_ ?_ <;> rfl
  refine asked.untimed (by rw [fsm]; exact running) (by rw [fsm]; exact untimed) ?_
    fun _ => raiseLines_writeGateLine_writeGate s
  exact (setDriveOut_timer _ s).trans unarmed

theorem startWrite_sequenceInv {s : State} (underway : Underway s) (unarmed : s.timer = none) :
    (startWrite s).SequenceInv :=
  recording_sequenceInv (s := { s with
    fsm := .writeData
    wr := { s.wr with
      wseq := dataSequence (writeMark s.command) s.op.size, fifo := [], hostLeft := s.op.size, fmtDone := false } })
    (underway.congr rfl underway.line rfl) unarmed rfl rfl

theorem startFormat_sequenceInv {s : State} (underway : Underway s) (unarmed : s.timer = none) :
    (startFormat s).SequenceInv :=
  recording_sequenceInv (s := { s with
    fsm := .formatWrite
    wr := { s.wr with
      wseq := formatSequence s.op, fifo := [], hostLeft := 4 * s.op.count, fmtDone := false } })
    (underway.congr rfl underway.line rfl) unarmed rfl rfl

theorem readChunk_sequenceInv (w : Slots) (k : Nat) {s : State} (sequence : s.SequenceInv) :
    (readChunk w k s).SequenceInv := by
  have read := (onSlots_slotted w k s).sequenceInv sequence
  unfold readChunk
  dsimp only
  split
  case isTrue begins =>
    obtain ⟨underway, unarmed⟩ := read.receiving (by rw [begins.1]; rfl)
    exact startWrite_sequenceInv underway unarmed
  case isFalse => exact read

theorem countUnload_sequenceInv {s : State} (none_runs : s.fsm = .idle ∨ s.fsm = .params) (sequence : s.SequenceInv) :
    (countUnload s).SequenceInv := by
  obtain ⟨not_writing, not_running⟩ : s.fsm.writes = false ∧ s.fsm.running = false := by
    rcases none_runs with f | f <;> rw [f] <;> exact ⟨rfl, rfl⟩
  unfold countUnload
  split
  · exact sequence
  · split
    · refine ⟨?_, ?_, setDriveOut_noStep _ _, ?_, ?_, fun writes => ?_, fun running => ?_, fun collecting => ?_⟩
      · rw [clearLines_busy, clearLines_fsm]
        exact sequence.busy_iff
      · rw [clearLines_intLine, clearLines_irq]
        exact sequence.line_follows
      · rw [clearLines_timer, clearLines_fsm]
        exact sequence.timer_iff
      · rw [clearLines_fsm, clearLines_cont]
        exact sequence.cont_matches
      · rw [clearLines_fsm] at writes
        exact absurd writes (ne_true_of_eq_false not_writing)
      · rw [clearLines_fsm] at running
        exact absurd running (ne_true_of_eq_false not_running)
      · rw [clearLines_fsm] at collecting
        rw [clearLines_params, clearLines_nexp]
        exact sequence.params_missing collecting
    · exact sequence.congr ⟨rfl, rfl, rfl, rfl, rfl, rfl, rfl⟩ sequence.line_follows

theorem onIndexEdge_sequenceInv {s : State} (sequence : s.SequenceInv) : (onIndexEdge s).SequenceInv := by
  have counted : (countIndex s).SequenceInv := sequence.congr ⟨rfl, rfl, rfl, rfl, rfl, rfl, rfl⟩ sequence.line_follows
  cases state : s.fsm
  case idle | params =>
    rw [onIndexEdge_unloads (by simp [state])]
    exact countUnload_sequenceInv (by simp [state]) sequence
  case searchId =>
    rw [onIndexEdge_searchId state]
    split
    · exact complete_sequenceInv _ (counted.underway (by rw [show (countIndex s).fsm = s.fsm from rfl, state]; rfl))
    · exact counted
  case inId | searchData =>
    rw [onIndexEdge_counts (by simp [state])]
    exact counted
  case formatWaitIndex =>
    rw [onIndexEdge_formatWaitIndex state]
    exact startFormat_sequenceInv (sequence.underway (by rw [state]; rfl)) (sequence.unarmed (by rw [state]; rfl))
  case formatWrite =>
    rw [onIndexEdge_formatWrite state]
    split
    · exact complete_sequenceInv _ (sequence.underway (by rw [state]; rfl))
    · exact sequence
  all_goals
    rw [onIndexEdge_ignored (by simp [state])]
    exact sequence

theorem sampleIndex_sequenceInv (n : DriveId) {s : State} (sequence : s.SequenceInv) :
    (sampleIndex n s).SequenceInv := by
  have sampled : State.SequenceInv { s with lastIndex := s.index n } :=
    sequence.congr ⟨rfl, rfl, rfl, rfl, rfl, rfl, rfl⟩ sequence.line_follows
  rw [sampleIndex_eq]
  split
  · exact onIndexEdge_sequenceInv sampled
  · exact sampled

theorem Encoded.sequenceInv {s t : State} (encoded : Encoded s t) (sequence : s.SequenceInv) : t.SequenceInv := by
  have line : t.intLine = t.irq := by
    obtain ⟨_, irq, line⟩ | ⟨_, irq, line⟩ := encoded.request
    · rw [irq, line]
      exact sequence.line_follows
    · rw [irq, line]
  refine sequence.congr ?_ line
  constructor <;> rw [encoded.rest]

theorem nextSector_sequenceInv {s : State} (underway : Underway s) (unarmed : s.timer = none) :
    (nextSector s).SequenceInv := by
  unfold nextSector
  dsimp only
  split
  · exact complete_sequenceInv _ (underway.congr rfl underway.line rfl)
  · exact Underway.untimed (s := beginSearch _) (underway.congr rfl underway.line rfl) rfl rfl unarmed nofun

theorem endWrite_sequenceInv {s : State} (sequence : s.SequenceInv) : (endWrite s).SequenceInv := by
  unfold endWrite
  split
  case isTrue ends =>
    have underway := sequence.underway (by rw [ends.1]; rfl)
    have unarmed := sequence.unarmed (by rw [ends.1]; rfl)
    exact nextSector_sequenceInv (underway.clearLines (by decide) (by decide)) ((setDriveOut_timer _ s).trans unarmed)
  case isFalse => exact sequence

theorem emit_sequenceInv {n : DriveId} {k : Nat} {s t : State} (sequence : s.SequenceInv) (writes : s.fsm.writes = true)
    (next : emit n k s = .next t) : t.SequenceInv := by
  have encoded := (encodeNext_encoded k s).sequenceInv sequence
  rcases emit_next next with ⟨_, rfl⟩ | ⟨_, v, written, rfl⟩
  · refine complete_sequenceInv _ (encoded.underway ?_)
    rw [(encodeNext_encoded k s).fsm]
    cases state : s.fsm <;> rw [state] at writes <;> first | exact absurd writes (by decide) | rfl
  · refine endWrite_sequenceInv (encoded.congr ?_ ?_)
    · have frame := writePulses_frame written
      constructor <;> (show _ = _; rw [State.dropSlots, frame])
    · show v.intLine = v.irq
      rw [writePulses_frame written]
      exact encoded.line_follows

theorem rearmRotation_sequenceInv (n : DriveId) {s : State} (sequence : s.SequenceInv) :
    (rearmRotation n s).SequenceInv := by
  refine sequence.congr ?_ ?_
  · constructor <;> cases n <;> rfl
  · cases n <;> exact sequence.line_follows

theorem delivering_sequenceInv (n : DriveId) {s : State} (sequence : s.SequenceInv) : (delivering n s).SequenceInv := by
  refine rearmRotation_sequenceInv n ?_
  rcases (deliveredWord_delivers n s).2 with same | drawn
  · rw [same]
    exact sequence
  · rw [drawn]
    exact sequence.congr ⟨rfl, rfl, rfl, rfl, rfl, rfl, rfl⟩ sequence.line_follows

theorem advanceHead_sequenceInv (n : DriveId) (len : Nat) {s : State} (sequence : s.SequenceInv) :
    (advanceHead n len s).SequenceInv := by
  obtain ⟨_, _, _, turned⟩ := advanceHead_frame n len s
  rw [turned]
  exact sequence.congr ⟨rfl, rfl, rfl, rfl, rfl, rfl, rfl⟩ sequence.line_follows

theorem onRotation_sequenceInv {n : DriveId} {s t : State} (sequence : s.SequenceInv) (next : onRotation n s = .next t) :
    t.SequenceInv := by
  rcases onRotation_next next with rfl | ⟨w, len, u, taken, rfl⟩
  · exact rearmRotation_sequenceInv n sequence
  have delivered := delivering_sequenceInv n sequence
  refine advanceHead_sequenceInv n len ?_
  rcases onPulses_next taken with rfl | ⟨_, ⟨_, rfl⟩ | ⟨writes, emitted⟩⟩
  · exact delivered
  · exact readChunk_sequenceInv _ _ (sampleIndex_sequenceInv n delivered)
  · exact emit_sequenceInv (sampleIndex_sequenceInv n delivered) writes emitted

/-- Settles O54: every event of a step keeps the sequencing. -/
theorem stepKeepsTheSequencing : Obligations.StepKeepsTheSequencing := by
  intro s t sequence next
  have same {u : State} (same : SameSequence s u) (line : u.intLine = u.irq) : u.SequenceInv := sequence.congr same line
  cases step_event next with
  | rests => exact sequence
  | access _ rest _ _ _ run => exact exec_leadsTo bus_sequence run (sequence.later rest)
  | timer _ _ _ armed run => exact onTimer_sequenceInv sequence (by rw [armed]; rfl) run
  | rotation n _ _ _ _ run =>
    exact onRotation_sequenceInv (by exact same ⟨rfl, rfl, rfl, rfl, rfl, rfl, rfl⟩ sequence.line_follows) run
  | clock => exact same ⟨rfl, rfl, rfl, rfl, rfl, rfl, rfl⟩ sequence.line_follows
  | builds => exact same ⟨rfl, rfl, rfl, rfl, rfl, rfl, rfl⟩ sequence.line_follows
  | protects => exact same ⟨rfl, rfl, rfl, rfl, rfl, rfl, rfl⟩ sequence.line_follows
  | loads n =>
    rw [setDrive_only]
    exact same ⟨rfl, rfl, rfl, rfl, rfl, rfl, rfl⟩ sequence.line_follows
  | resets => exact resetController_sequenceInv _

end Sys2Proof.Machine
end

section
/-! PROOFS. The interrupt line and its causes (60_exceptions.md R423): a data request, or a completed command's result. -/

namespace Sys2Proof.Machine

/-- The interrupt line is down, or a request is pending, or a result stands and no command runs. -/
def Caused (s : State) : Prop := s.irq = true → s.drq = true ∨ (s.resultFull = true ∧ s.busy = false)

theorem caused_of_low {s : State} (low : s.irq = false) : Caused s := fun raised => nomatch low.symm.trans raised

theorem caused_of_request {s : State} (asked : s.drq = true) : Caused s := fun _ => .inl asked

theorem Caused.congr {s t : State} (caused : Caused s) (irq : t.irq = s.irq) (drq : t.drq = s.drq)
    (full : t.resultFull = s.resultFull) (busy : t.busy = s.busy) : Caused t := by
  unfold Caused
  rw [irq, drq, full, busy]
  exact caused

theorem Caused.setDriveOut {s : State} (caused : Caused s) (v : Byte) : Caused (setDriveOut v s) :=
  caused.congr (setDriveOut_irq v s) (setDriveOut_drq v s) (setDriveOut_resultFull v s) (setDriveOut_busy v s)

/-! ## Completion and the seek -/

theorem latch_caused (code : Byte) (s : State) : Caused (latch code s) :=
  fun _ => .inr ⟨latch_resultFull code s, latch_busy code s⟩

theorem complete_caused (code : Byte) {s : State} (caused : Caused s) : Caused (complete code s) := by
  obtain now | later := Nat.eq_zero_or_pos s.cfg.completionDelay
  · rw [complete_now code s now]
    exact latch_caused _ _
  · rw [complete_later code s later]
    have closed : Caused (clearLines writeGateLine s) := caused.setDriveOut _
    generalize clearLines writeGateLine s = u at closed
    exact closed.congr rfl rfl rfl rfl

theorem postSeek_caused {s : State} (caused : Caused s) : Caused (postSeek s) := by
  unfold postSeek
  split
  · exact complete_caused _ caused
  · split <;> exact caused.congr rfl rfl rfl rfl

theorem SeekOutcome.caused {n : DriveId} {s t : State} (outcome : SeekOutcome n s t) (caused : Caused s) :
    Caused t := by
  cases outcome with
  | steps =>
    obtain ⟨_, _, _, moved⟩ := seekTrack_frame n s.seek.dirIn s
    refine caused.congr ?_ ?_ ?_ ?_ <;> rw [stepIssued, moved]
  | waits => exact caused.congr rfl rfl rfl rfl
  | goesOn => exact postSeek_caused (caused.congr rfl rfl rfl rfl)

/-! ## The bus -/

theorem headDown_caused {s : State} (caused : Caused s) : Caused (headDown s) :=
  Caused.setDriveOut (s := { s with
    deletedSeen := false, unload := none, seek := { s.seek with newlyLoaded := !s.headLoaded } })
    (caused.congr rfl rfl rfl rfl) _

theorem seekPlanned_caused {n : DriveId} {s : State} (caused : Caused s) : Caused (seekPlanned n s) :=
  (Caused.setDriveOut (s := { s with seek := planSeek n s }) (caused.congr rfl rfl rfl rfl) _).congr rfl rfl rfl rfl

theorem Runs.caused {op : Op} {s t : State} (runs : Runs op s t) (caused : Caused s) : Caused t := by
  cases runs with
  | answers => exact fun _ => .inr ⟨rfl, rfl⟩
  | setsRegisters => exact fun raised => (caused raised).imp id fun completed => ⟨completed.1, rfl⟩
  | writesPort v => exact fun raised => (caused.setDriveOut v raised).imp id fun completed => ⟨completed.1, rfl⟩
  | starts n _ _ _ starts =>
    have down : Caused (headDown (setOperands op s)) := headDown_caused (caused.congr rfl rfl rfl rfl)
    cases starts with
    | notReady => exact complete_caused _ down
    | writeProtected => exact complete_caused _ down
    | seeks _ outcome => exact outcome.caused (seekPlanned_caused down)

theorem selectFromCommand_caused {s : State} (caused : Caused s) : Caused (selectFromCommand s) := by
  obtain ⟨_, _, _, _, _, _, selection⟩ := selectFromCommand_frame s
  rw [selection]
  exact caused.congr rfl rfl rfl rfl

theorem acceptParameter_caused {v : Byte} {s t : State} (next : acceptParameter v s = .next t) (caused : Caused s) :
    Caused t := by
  have joined : Caused (collected v s) := caused.congr rfl rfl rfl rfl
  obtain ⟨_, ⟨_, rfl⟩ | ⟨_, _, _, runs⟩⟩ := acceptParameter_next next
  · exact joined
  · exact runs.caused (selectFromCommand_caused joined)

theorem acceptCommand_irq {v : Byte} {s t : State} (next : acceptCommand v s = .next t) : t.irq = s.irq := by
  obtain ⟨_, op, _, ⟨_, rfl⟩ | ⟨rfl, answer, rfl⟩⟩ := acceptCommand_next next
  · rfl
  · obtain ⟨_, _, _, _, _, _, selection⟩ := selectFromCommand_frame (commandAccepted v .readStatus s)
    rw [selection]
    rfl

theorem bus_causes : BusLeads (fun s => s.irq = false) Caused where
  command _ _ _ next low := caused_of_low ((acceptCommand_irq next).trans low)
  parameter _ _ _ next low := acceptParameter_caused next (caused_of_low low)
  parameters _ _ _ := acceptParameter_caused
  reset _ _ := caused_of_low rfl
  read _ _ _ low := caused_of_low low
  result _ _ := caused_of_low rfl
  data _ _ _ _ := caused_of_low rfl

/-! ## The timer and the rotations -/

theorem onTimer_caused {s t : State} (caused : Caused s) (next : onTimer s = .next t) : Caused t := by
  unfold onTimer at next
  split at next
  case h_1 =>
    cases next
    exact caused
  case h_2 =>
    split at next
    · split at next
      · exact nomatch next
      · exact (seekStep_outcome next).caused caused
    · cases next
      exact caused
  case h_3 =>
    cases next
    exact postSeek_caused caused
  case h_4 =>
    cases next
    exact latch_caused _ _

theorem Received.caused {s t : State} (received : Received s t) (caused : Caused s) : Caused t := by
  cases received with
  | mk _ _ _ _ _ _ _ _ _ _ _ _ _ asks =>
    obtain ⟨rfl, rfl, _⟩ | ⟨rfl, _⟩ := asks
    · exact caused
    · exact caused_of_request rfl

theorem Slotted.caused {s t : State} (slotted : Slotted s t) (caused : Caused s) : Caused t := by
  cases slotted with
  | going _ received => exact received.caused caused
  | ended code u _ _ received _ after => exact after.caused (complete_caused code (received.caused caused))

theorem readChunk_caused (w : Slots) (k : Nat) {s : State} (caused : Caused s) : Caused (readChunk w k s) := by
  unfold readChunk
  dsimp only
  split
  · exact caused_of_request rfl
  · exact (onSlots_slotted w k s).caused caused

theorem countUnload_caused {s : State} (caused : Caused s) : Caused (countUnload s) := by
  unfold countUnload
  split
  · exact caused
  · split
    · exact Caused.setDriveOut (by exact caused) _
    · exact caused

theorem onIndexEdge_caused {s : State} (caused : Caused s) : Caused (onIndexEdge s) := by
  have counted : Caused (countIndex s) := caused
  cases state : s.fsm
  case idle | params =>
    rw [onIndexEdge_unloads (by simp [state])]
    exact countUnload_caused caused
  case searchId =>
    rw [onIndexEdge_searchId state]
    split
    · exact complete_caused _ counted
    · exact counted
  case inId | searchData =>
    rw [onIndexEdge_counts (by simp [state])]
    exact counted
  case formatWaitIndex =>
    rw [onIndexEdge_formatWaitIndex state]
    exact caused_of_request rfl
  case formatWrite =>
    rw [onIndexEdge_formatWrite state]
    split
    · exact complete_caused _ caused
    · exact caused
  all_goals
    rw [onIndexEdge_ignored (by simp [state])]
    exact caused

theorem sampleIndex_caused (n : DriveId) {s : State} (caused : Caused s) : Caused (sampleIndex n s) := by
  have sampled : Caused { s with lastIndex := s.index n } := caused
  rw [sampleIndex_eq]
  split
  · exact onIndexEdge_caused sampled
  · exact sampled

theorem Encoded.caused {s t : State} (encoded : Encoded s t) (caused : Caused s) : Caused t := by
  obtain ⟨drq, irq, _⟩ | ⟨drq, _⟩ := encoded.request
  · exact caused.congr irq drq (by rw [encoded.rest]) (by rw [encoded.rest])
  · exact caused_of_request drq

theorem endWrite_caused {s : State} (caused : Caused s) : Caused (endWrite s) := by
  unfold endWrite
  split
  · have closed : Caused (clearLines writeGateLine s) := caused.setDriveOut _
    unfold nextSector
    dsimp only
    split
    · exact complete_caused _ (by exact closed)
    · exact closed
  · exact caused

theorem emit_caused {n : DriveId} {k : Nat} {s t : State} (caused : Caused s) (next : emit n k s = .next t) :
    Caused t := by
  have encoded := (encodeNext_encoded k s).caused caused
  rcases emit_next next with ⟨_, rfl⟩ | ⟨_, v, written, rfl⟩
  · exact complete_caused _ encoded
  · refine endWrite_caused (encoded.congr ?_ ?_ ?_ ?_) <;> rw [State.dropSlots, writePulses_frame written]

theorem onRotation_caused {n : DriveId} {s t : State} (caused : Caused s) (next : onRotation n s = .next t) :
    Caused t := by
  rcases onRotation_next next with rfl | ⟨w, len, u, taken, rfl⟩
  · cases n <;> exact caused
  have delivered : Caused (delivering n s) := by
    have word : Caused (deliveredWord n s).2 := by
      rcases (deliveredWord_delivers n s).2 with same | drawn
      · rw [same]
        exact caused
      · rw [drawn]
        exact caused
    cases n <;> exact word
  have pulsed : Caused u := by
    rcases onPulses_next taken with rfl | ⟨_, ⟨_, rfl⟩ | ⟨_, emitted⟩⟩
    · exact delivered
    · exact readChunk_caused _ _ (sampleIndex_caused n delivered)
    · exact emit_caused (sampleIndex_caused n delivered) emitted
  obtain ⟨_, _, _, turned⟩ := advanceHead_frame n len u
  rw [turned]
  exact pulsed

/-- Settles O50: whatever raises the line leaves its cause. -/
theorem interruptRisesOnlyWithACause : Obligations.InterruptRisesOnlyWithACause := by
  intro s t next low
  have caused : Caused t := by
    have before : Caused s := caused_of_low low
    cases step_event next with
    | access _ rest _ _ _ run => exact exec_leadsTo bus_causes run low
    | timer _ _ _ _ run => exact onTimer_caused (by exact before) run
    | rotation n _ _ _ _ run => exact onRotation_caused (by exact before) run
    | loads n => cases n <;> exact before
    | resets => exact caused_of_low rfl
    | rests | clock | builds | protects => exact before
  exact caused

end Sys2Proof.Machine
end

section
/-! PROOFS. One slot of the receive path and the codes it can end a command with (60_exceptions.md R420, R421): those of
the command's class but the ones of the mechanical checks, which only a dispatch gives. -/

namespace Sys2Proof.Machine

/-! ## The codes of the receive path -/

/-- The codes the receive path may end a command with, before the deleted-data flag is added (60_exceptions.md R420). -/
def receiveCodes : Op → List Byte
  | .read128 | .readVar | .readDel128 | .readDelVar => [0x00, 0x08, 0x0A, 0x0C, 0x0E, 0x18]
  | .verify128 | .verifyVar => [0x00, 0x08, 0x0C, 0x0E, 0x18]
  | .readId => [0x00, 0x08, 0x0A, 0x0C, 0x18]
  | .write128 | .writeVar | .writeDel128 | .writeDelVar => [0x00, 0x0C, 0x18]
  | .seek | .format | .scan | .scanDel | .readStatus | .specify | .writeSpecial | .readSpecial => []

/-- The receive path's codes are possible results of their command, with the deleted-data flag in the read family. -/
theorem possible_of_receiveCodes {op : Op} {code : Byte} (receives : code ∈ receiveCodes op) :
    op.isDrive = true ∧ code ∈ possibleResults op
      ∧ (op.inReadFamily = true → code ||| deletedFlag ∈ possibleResults op) := by
  revert code
  cases op <;> decide

/-- `code` may end what the receive path does for the command `cmd` in the state `f`. -/
def ReceiveFits (cmd : Option Op) (f : Fsm) (code : Byte) : Prop :=
  ∀ op, cmd = some op → phaseFits f cmd = true → code ∈ receiveCodes op

theorem ReceiveFits.before {cmd : Option Op} {f g : Fsm} {code : Byte} (moves : Moves cmd f g)
    (fits : ReceiveFits cmd g code) : ReceiveFits cmd f code := fun op command phase => fits op command (moves.2.2 phase)

theorem receiveFits_of {cmd : Option Op} {f : Fsm} {code : Byte}
    (fits : ∀ op, cmd = some op → phaseFits f (some op) = true → code ∈ receiveCodes op) : ReceiveFits cmd f code := by
  rintro op rfl phase
  exact fits op rfl phase

/-- The end of the work, an ID with a bad CRC, and a search without success belong to every command that searches. -/
theorem receiveFits_common {cmd : Option Op} {f : Fsm} {code : Byte} (reads : f.reads = true)
    (common : code ∈ ([0x00, 0x0C, 0x18] : List Byte)) : ReceiveFits cmd f code := by
  refine .before (moves_searchId cmd f reads) (receiveFits_of fun op _ phase => ?_)
  revert code
  cases op <;> first | exact absurd phase (by decide) | decide

theorem receiveFits_readId {cmd : Option Op} {f : Fsm} {code : Byte} (readId : cmd = some .readId)
    (possible : code ∈ receiveCodes .readId) : ReceiveFits cmd f code := by
  rintro op command _
  obtain rfl := Option.some.inj (command.symm.trans readId)
  exact possible

/-- A clock error and a data CRC error belong to every command that reads data fields. -/
theorem receiveFits_data {cmd : Option Op} {f : Fsm} {code : Byte} (field : f = .inData)
    (common : code ∈ ([0x08, 0x0E] : List Byte)) : ReceiveFits cmd f code := by
  subst field
  refine receiveFits_of fun op _ phase => ?_
  revert code
  cases op <;> first | exact absurd phase (by decide) | decide

/-- A late byte of a data field belongs to the commands that transfer. -/
theorem receiveFits_late {s : State} (field : s.fsm = .inData) (transfer : s.isTransfer = true) :
    ReceiveFits s.command s.fsm 0x0A := by
  rw [field]
  refine receiveFits_of fun op command phase => ?_
  rw [State.isTransfer, command] at transfer
  clear command
  cases op <;> first | exact absurd phase (by decide) | exact absurd transfer (by decide) | decide

/-! ## A slot taken -/

/-- One slot: the command goes on, or ends with a code of the receive path. -/
inductive Taken (s : State) : State → Prop
  | going (t : State) (received : Received s t) : Taken s t
  | ended (code : Byte) (u : State) (reading : s.fsm.reads = true) (received : Received s u)
      (fits : ReceiveFits s.command s.fsm code) : Taken s (complete code u)

theorem Taken.after {s t u : State} (received : Received s t) (taken : Taken t u) : Taken s u := by
  cases taken with
  | going _ next => exact .going _ (received.trans next)
  | ended code v reading next fits =>
    refine .ended code v ?_ (received.trans next) ?_
    · cases reads : s.fsm.reads with
      | true => rfl
      | false =>
        rw [received.moves.1 reads, reads] at reading
        exact reading
    · rw [received.command] at fits
      exact fits.before received.moves

theorem research_taken {s : State} (reads : s.fsm.reads = true) : Taken s (research s) := by
  have searches : Received s { s with fsm := .searchId, sr := 0 } :=
    .of s .searchId 0 s.nbits s.op s.cap s.deletedSeen s.indexCount s.wr.skipDone (moves_searchId _ _ reads)
  unfold research
  dsimp only
  split
  · exact .ended 0x18 _ reads searches (receiveFits_common reads (by decide))
  · exact .going _ searches

theorem operands_received (o : Operands) (s : State) : Received s { s with op := o } :=
  .of s s.fsm s.sr s.nbits o s.cap s.deletedSeen s.indexCount s.wr.skipDone (.refl _ _)

theorem nextSector_taken {s : State} (reads : s.fsm.reads = true) : Taken s (nextSector s) := by
  by_cases last : s.op.count - 1 = 0
  · rw [nextSector_last last]
    exact .ended 0x00 _ reads (operands_received _ s) (receiveFits_common reads (by decide))
  · rw [nextSector_more last]
    exact .going _ (.of s .searchId 0 s.nbits _ s.cap s.deletedSeen 0 s.wr.skipDone (moves_searchId _ _ reads))

theorem endReadId_taken {s : State} (field : s.fsm = .inId) (readId : s.command = some .readId) :
    Taken s (endReadId s) := by
  have reads : s.fsm.reads = true := by rw [field]; rfl
  have ends {code : Byte} {u : State} (received : Received s u) (possible : code ∈ receiveCodes .readId) :
      Taken s (complete code u) := .ended code u reads received (receiveFits_readId readId possible)
  unfold endReadId
  split
  · exact ends (.refl s) (by decide)
  · split
    · exact ends (.refl s) (by decide)
    · split
      · exact ends (.refl s) (by decide)
      · dsimp only
        split
        · exact ends (operands_received _ s) (by decide)
        · exact .going _ ((operands_received _ s).trans (beginSearch_received _ reads))

theorem endSoughtId_taken {s : State} (field : s.fsm = .inId) (sought : s.command ≠ some .readId) :
    Taken s (endSoughtId s) := by
  have reads : s.fsm.reads = true := by rw [field]; rfl
  have goes_on {t : State} (received : Slotted s t) (still : t.fsm.reads = true) : Taken s t := by
    cases received with
    | going _ received => exact .going _ received
    | ended code u _ _ _ _ after =>
      rw [after.moves.1 (complete_reads code u), complete_reads] at still
      exact nomatch still
  have outcome := endSoughtId_slotted s field sought
  unfold endSoughtId at outcome ⊢
  split
  · exact research_taken reads
  · split
    · exact .ended 0x0C s reads (.refl s) (receiveFits_common reads (by decide))
    · split
      · exact research_taken reads
      · rw [if_neg ‹_›, if_neg ‹_›, if_neg ‹_›] at outcome
        exact goes_on outcome (by split <;> rfl)

theorem endId_taken {s : State} (field : s.fsm = .inId) : Taken s (endId s) := by
  by_cases readId : s.command = some .readId
  · rw [endId_readId readId]
    exact endReadId_taken field readId
  · rw [endId_sought readId]
    exact endSoughtId_taken field readId

theorem idByte_taken (d : Byte) {s : State} (field : s.fsm = .inId) : Taken s (idByte d s) := by
  have reads : s.fsm.reads = true := by rw [field]; rfl
  obtain header | past := Nat.lt_or_ge s.cap.idb.length 4
  · rw [idByte_header header]
    split
    case isTrue readId =>
      split
      · exact .ended 0x0A _ reads (capture_received s _) (receiveFits_readId readId (by decide))
      · exact .going _ ((capture_received s _).trans (offer_received d _ reads))
    case isFalse => exact .going _ (capture_received s _)
  · rw [idByte_crc past]
    split
    · exact .after (capture_received s _) (endId_taken field)
    · exact .going _ (capture_received s _)

theorem endData_taken {s : State} (field : s.fsm = .inData) : Taken s (endData s) := by
  have reads : s.fsm.reads = true := by rw [field]; rfl
  have noted : Received s { s with deletedSeen := s.deletedSeen || s.cap.deleted } :=
    .of s s.fsm s.sr s.nbits s.op s.cap _ s.indexCount s.wr.skipDone (.refl _ _)
  unfold endData
  dsimp only
  split
  case isTrue late =>
    exact .ended 0x0A _ reads noted (receiveFits_late field (Bool.and_eq_true_iff.mp late).1)
  case isFalse =>
    split
    · exact .ended 0x08 _ reads noted (receiveFits_data field (by decide))
    · split
      · exact .ended 0x0E _ reads noted (receiveFits_data field (by decide))
      · split
        · exact .ended 0x00 _ reads noted (receiveFits_common reads (by decide))
        · exact .after noted (nextSector_taken reads)

theorem sectorByte_taken (d : Byte) {s : State} (field : s.fsm = .inData) : Taken s (sectorByte d s) := by
  have reads : s.fsm.reads = true := by rw [field]; rfl
  unfold sectorByte
  dsimp only
  split
  case isTrue transfer =>
    split
    · exact .ended 0x0A _ reads (capture_received s _) (receiveFits_late field transfer)
    · exact .going _ ((capture_received s _).trans (offer_received d _ reads))
  case isFalse => exact .going _ (capture_received s _)

theorem dataByte_taken (d : Byte) {s : State} (field : s.fsm = .inData) : Taken s (dataByte d s) := by
  obtain inside | past := Nat.lt_or_ge s.cap.nbytes s.op.size
  · rw [dataByte_sector inside]
    exact .after (capture_received s _) (sectorByte_taken d field)
  · rw [dataByte_crc past]
    split
    · exact .after (capture_received s _) (endData_taken field)
    · exact .going _ (capture_received s _)

theorem searchDataSlot_taken {s : State} (field : s.fsm = .searchData) : Taken s (searchDataSlot s) := by
  have counted : Received s { s with nbits := s.nbits + 1 } :=
    .of s s.fsm s.sr _ s.op s.cap s.deletedSeen s.indexCount s.wr.skipDone (.refl _ _)
  unfold searchDataSlot
  dsimp only
  split
  · exact .going _ (counted.trans (startData_received _ _ field))
  · split
    · exact .going _ (counted.trans (startData_received _ _ field))
    · split
      · exact .after counted (research_taken (by show s.fsm.reads = true; rw [field]; rfl))
      · exact .going _ counted

/-- One slot, in every state. -/
theorem onSlot_taken (s : State) (b : Bool) : Taken s (onSlot s b) := by
  have shifted : Received s { s with sr := shiftIn s.sr b } :=
    .of s s.fsm _ s.nbits s.op s.cap s.deletedSeen s.indexCount s.wr.skipDone (.refl _ _)
  have counted {n : Nat} : Received s { s with sr := shiftIn s.sr b, nbits := n } :=
    .of s s.fsm _ n s.op s.cap s.deletedSeen s.indexCount s.wr.skipDone (.refl _ _)
  cases reads : s.fsm.reads with
  | false =>
    rw [onSlot_idle s b reads]
    exact .going _ shifted
  | true =>
    cases state : s.fsm <;> rw [state] at reads
    case searchId =>
      rw [onSlot_searchId state]
      exact .going _ (shifted.trans (searchIdSlot_received _ state))
    case searchData =>
      rw [onSlot_searchData state]
      exact .after shifted (searchDataSlot_taken state)
    case writeSkipGap2 =>
      rw [onSlot_writeSkipGap2 state]
      exact .going _ (shifted.trans (skipSlot_received _))
    case inId =>
      obtain inside | last := Nat.lt_or_ge (s.nbits + 1) 32
      · rw [onSlot_field_counts (.inl state) inside]
        exact .going _ counted
      · rw [onSlot_inId_byte state last]
        exact .after (shifted.trans (noteClock_received _)) (idByte_taken _ state)
    case inData =>
      obtain inside | last := Nat.lt_or_ge (s.nbits + 1) 32
      · rw [onSlot_field_counts (.inr state) inside]
        exact .going _ counted
      · rw [onSlot_inData_byte state last]
        exact .after (shifted.trans (noteClock_received _)) (dataByte_taken _ state)
    all_goals exact nomatch reads

end Sys2Proof.Machine
end

section
/-! PROOFS. A drive command in its own phases, and the results it may end with (60_exceptions.md R420, R421, R425). -/

namespace Sys2Proof.Machine

/-! ## The phase, with the results or without -/

/-- A result that stands while no command runs is one its drive command may end with. -/
def State.Answered (s : State) : Prop :=
  s.busy = false → s.resultFull = true → ∀ op, s.command = some op → op.isDrive = true → s.result ∈ possibleResults op

/-- The phase invariant and, where `results` holds, also the standing result: one run over the operations serves both. -/
structure State.Phased (results : Prop) (s : State) : Prop where
  phase : s.PhaseInv
  answered : results → s.Answered

section
variable {results : Prop}

/-- What the phase and the standing result rest on. -/
structure SamePhase (s t : State) : Prop where
  fsm : t.fsm = s.fsm
  command : t.command = s.command
  cont : t.cont = s.cont
  drq : t.drq = s.drq
  busy : t.busy = s.busy
  full : t.resultFull = s.resultFull
  result : t.result = s.result

theorem State.Phased.congr {s t : State} (phased : s.Phased results) (same : SamePhase s t) : t.Phased results where
  phase := {
    fits := by rw [same.fsm, same.command]; exact phased.phase.fits
    latched := by rw [same.fsm, same.cont, same.command]; exact phased.phase.latched
    request_runs := by rw [same.drq, same.fsm]; exact phased.phase.request_runs }
  answered claimed := by
    rw [State.Answered, same.busy, same.full, same.command, same.result]
    exact phased.answered claimed

/-- A running command whose code does not wait. -/
theorem phased_of_running {s : State} (busy : s.busy = true) (running : s.fsm.running = true)
    (goes_on : s.fsm ≠ .completing) (fits : phaseFits s.fsm s.command = true) : s.Phased results where
  phase := ⟨fits, fun _ _ completing => absurd completing goes_on, fun _ => running⟩
  answered _ not_busy := nomatch busy.symm.trans not_busy

/-- A controller that is idle or collects parameters, its request served. -/
theorem phased_of_waiting {s : State} (waiting : s.fsm = .idle ∨ s.fsm = .params) (served : s.drq = false)
    (answered : s.Answered) : s.Phased results where
  phase := {
    fits := by rcases waiting with f | f <;> rw [f] <;> rfl
    latched := fun _ _ completing => by rcases waiting with f | f <;> rw [f] at completing <;> exact nomatch completing
    request_runs := fun asked => nomatch served.symm.trans asked }
  answered _ := answered

/-- A running drive command has a name. -/
theorem State.Phased.drive {s : State} (phased : s.Phased results) (running : s.fsm.running = true) :
    ∃ op, s.command = some op ∧ phaseFits s.fsm (some op) = true ∧ op.isDrive = true := by
  have fits := phased.phase.fits
  cases command : s.command with
  | none =>
    rw [command] at fits
    cases state : s.fsm <;> rw [state] at fits running <;>
      first | exact absurd running (by decide) | exact absurd fits (by decide)
  | some op =>
    rw [command] at fits
    refine ⟨op, rfl, fits, ?_⟩
    cases state : s.fsm <;> rw [state] at fits running <;>
      first | exact absurd running (by decide) | (revert fits; cases op <;> decide)

/-! ## Completion -/

/-- The command in `s` is a drive command that may end with `code`, its flag added. -/
def MayEnd (code : Byte) (s : State) : Prop :=
  ∃ op, s.command = some op ∧ op.isDrive = true ∧ completionCode code s ∈ possibleResults op

theorem inReadFamily_of_command {s : State} {op : Op} (command : s.command = some op) :
    s.inReadFamily = op.inReadFamily := by
  rw [State.inReadFamily, command, Option.any_some]

/-- No flag is added outside the read family, or before a deleted mark has been read. -/
theorem mayEnd_of_flagless {s : State} {op : Op} {code : Byte} (command : s.command = some op)
    (drive : op.isDrive = true) (flagless : op.inReadFamily = false ∨ s.deletedSeen = false)
    (possible : code ∈ possibleResults op) : MayEnd code s := by
  refine ⟨op, command, drive, ?_⟩
  rw [completionCode, inReadFamily_of_command command]
  rcases flagless with outside | unseen
  · rw [outside]
    exact possible
  · rw [unseen, Bool.and_false]
    exact possible

theorem mayEnd_of_receives {s : State} {op : Op} {code : Byte} (command : s.command = some op)
    (receives : code ∈ receiveCodes op) : MayEnd code s := by
  obtain ⟨drive, plain, flagged⟩ := possible_of_receiveCodes receives
  refine ⟨op, command, drive, ?_⟩
  rw [completionCode, inReadFamily_of_command command]
  split
  case isTrue read => exact flagged (Bool.and_eq_true_iff.mp read).1
  case isFalse => exact plain

theorem complete_phased {code : Byte} {s : State} (busy : s.busy = true) (ends : MayEnd code s) :
    (complete code s).Phased results := by
  obtain ⟨op, command, drive, possible⟩ := ends
  obtain now | later := Nat.eq_zero_or_pos s.cfg.completionDelay
  · rw [complete_now code s now]
    refine phased_of_waiting (.inl (latch_fsm _ _)) (latch_drq _ _) fun _ _ other named _ => ?_
    rw [latch_command, disarm_command, clearLines_command, command] at named
    obtain rfl := Option.some.inj named
    rw [latch_result]
    exact possible
  · rw [complete_later code s later]
    have still_busy : (clearLines writeGateLine s).busy = true := (clearLines_busy _ s).trans busy
    have same_command : (clearLines writeGateLine s).command = some op := (clearLines_command _ s).trans command
    generalize clearLines writeGateLine s = u at still_busy same_command
    refine ⟨⟨?_, fun waiting other _ cont named => ?_, fun _ => rfl⟩, fun _ not_busy => ?_⟩
    · show phaseFits .completing u.command = true
      rw [same_command]
      exact drive
    · obtain rfl := Option.some.inj (same_command.symm.trans named)
      obtain rfl := Cont.latch.inj cont
      exact possible
    · exact nomatch still_busy.symm.trans not_busy

/-! ## Seeking -/

theorem postSeek_phased {s : State} {op : Op} (busy : s.busy = true) (command : s.command = some op)
    (drive : op.isDrive = true) : (postSeek s).Phased results := by
  by_cases seek : op = .seek
  · subst seek
    rw [postSeek_seek command]
    exact complete_phased busy (mayEnd_of_flagless command rfl (.inl rfl) (by decide))
  by_cases format : op = .format
  · subst format
    rw [postSeek_format command]
    refine phased_of_running busy rfl nofun ?_
    show phaseFits .formatWaitIndex s.command = true
    rw [command]
    rfl
  · have other {o : Op} (differs : op ≠ o) : s.command ≠ some o := fun same =>
      differs (Option.some.inj (command.symm.trans same))
    rw [postSeek_other (other seek) (other format)]
    refine phased_of_running busy rfl nofun ?_
    show phaseFits .searchId s.command = true
    rw [command]
    cases op <;> first | rfl | exact absurd rfl seek | exact absurd rfl format | exact absurd drive (by decide)

theorem SeekOutcome.phased {n : DriveId} {op : Op} {s t : State} (outcome : SeekOutcome n s t) (busy : s.busy = true)
    (seeking : s.fsm = .seekStep) (command : s.command = some op) (drive : op.isDrive = true) : t.Phased results := by
  cases outcome with
  | steps =>
    obtain ⟨_, _, _, moved⟩ := seekTrack_frame n s.seek.dirIn s
    refine phased_of_running ?_ ?_ ?_ ?_ <;> rw [stepIssued, moved]
    · exact busy
    · exact congrArg Fsm.running seeking
    · exact fun completing => nomatch seeking.symm.trans completing
    · show phaseFits s.fsm s.command = true
      rw [seeking, command]
      exact drive
  | waits =>
    refine phased_of_running busy rfl nofun ?_
    show phaseFits .seekSettle s.command = true
    rw [command]
    exact drive
  | goesOn => exact postSeek_phased (s := landed n s) busy command drive

theorem headDown_frame (s : State) :
    (headDown s).busy = s.busy ∧ (headDown s).command = s.command ∧ (headDown s).deletedSeen = false := by
  obtain ⟨_, _, _, _, loaded⟩ := loadHead_frame { s with deletedSeen := false }
  rw [headDown, loaded]
  exact ⟨rfl, rfl, rfl⟩

theorem Starts.phased {op : Op} {n : DriveId} {s t : State} (starts : Starts op n s t) (busy : s.busy = true)
    (command : s.command = some op) (drive : op.isDrive = true) : t.Phased results := by
  obtain ⟨same_busy, same_command, unseen⟩ := headDown_frame s
  have down_busy := same_busy.trans busy
  have down_command := same_command.trans command
  cases starts with
  | notReady =>
    refine complete_phased down_busy (mayEnd_of_flagless down_command drive (.inr unseen) ?_)
    cases op <;> first | exact absurd drive (by decide) | decide
  | writeProtected checks =>
    refine complete_phased down_busy (mayEnd_of_flagless down_command drive (.inr unseen) ?_)
    cases op <;> first | exact absurd checks (by decide) | decide
  | seeks _ outcome =>
    refine outcome.phased ?_ rfl (op := op) ?_ drive <;>
      obtain ⟨_, _, _, _, _, planned⟩ := seekPlanned_frame n (headDown s) <;> rw [planned]
    · exact down_busy
    · exact down_command

/-! ## The bus -/

theorem answered_of_management {s : State} {op : Op} (command : s.command = some op) (management : op.isDrive = false) :
    s.Answered := by
  intro _ _ other named drive
  obtain rfl := Option.some.inj (command.symm.trans named)
  exact nomatch management.symm.trans drive

theorem Runs.phased {op : Op} {s t : State} (runs : Runs op s t) (busy : s.busy = true)
    (command : s.command = some op) (served : s.drq = false) : t.Phased results := by
  cases runs with
  | answers _ management =>
    exact phased_of_waiting (.inl rfl) served (answered_of_management (by exact command) management)
  | setsRegisters _ management =>
    exact phased_of_waiting (.inl rfl) served (answered_of_management (by exact command) management)
  | writesPort v management =>
    exact phased_of_waiting (.inl rfl) ((setDriveOut_drq v s).trans served)
      (answered_of_management (by exact (setDriveOut_command v s).trans command) management)
  | starts n _ drive _ starts => exact starts.phased busy command drive

/-- The select bits applied change nothing of the phase. -/
theorem selectFromCommand_samePhase (s : State) : SamePhase s (selectFromCommand s) := by
  obtain ⟨_, _, _, _, _, _, selection⟩ := selectFromCommand_frame s
  rw [selection]
  exact ⟨rfl, rfl, rfl, rfl, rfl, rfl, rfl⟩

/-- No data request is pending while no drive command runs (60_exceptions.md R425). -/
theorem State.Phased.served {s : State} (phased : s.Phased results) (none_runs : s.fsm.running = false) :
    s.drq = false :=
  Bool.eq_false_iff.mpr fun asked => nomatch none_runs.symm.trans (phased.phase.request_runs asked)

theorem acceptCommand_phased {v : Byte} {s t : State} (next : acceptCommand v s = .next t) (sequence : s.SequenceInv)
    (phased : s.Phased results) : t.Phased results := by
  obtain ⟨not_busy, op, named, accepted⟩ := acceptCommand_next next
  have served := phased.served (by rw [sequence.idle not_busy]; rfl)
  rcases accepted with ⟨params, rfl⟩ | ⟨rfl, answer, rfl⟩
  · exact phased_of_waiting (.inr (if_neg params)) served nofun
  · have selection := selectFromCommand_samePhase (commandAccepted v .readStatus s)
    exact phased_of_waiting (.inl rfl) (selection.drq.trans served)
      (answered_of_management (op := .readStatus) (selection.command.trans named) rfl)

theorem acceptParameter_phased {v : Byte} {s t : State} (next : acceptParameter v s = .next t)
    (sequence : s.SequenceInv) (phased : s.Phased results) : t.Phased results := by
  obtain ⟨collecting, ⟨_, rfl⟩ | ⟨_, op, command, runs⟩⟩ := acceptParameter_next next
  · exact phased.congr ⟨rfl, rfl, rfl, rfl, rfl, rfl, rfl⟩
  · have selection := selectFromCommand_samePhase (collected v s)
    refine runs.phased (selection.busy.trans ?_) (selection.command.trans command) (selection.drq.trans ?_)
    · exact sequence.busy_iff.trans (by rw [collecting]; rfl)
    · exact phased.served (by rw [collecting]; rfl)

/-- Every access of the bus keeps the sequencing and the phase. -/
theorem bus_phased :
    BusLeads (fun s => s.SequenceInv ∧ s.Phased results) (fun s => s.SequenceInv ∧ s.Phased results) where
  command v s t next holds := ⟨bus_sequence.command v s t next holds.1, acceptCommand_phased next holds.1 holds.2⟩
  parameter v s t next holds := ⟨bus_sequence.parameter v s t next holds.1, acceptParameter_phased next holds.1 holds.2⟩
  parameters v s t next holds := ⟨bus_sequence.parameter v s t next holds.1, acceptParameter_phased next holds.1 holds.2⟩
  reset s _ := ⟨resetController_sequenceInv s, phased_of_waiting (.inl (setDriveOut_fsm _ _)) (setDriveOut_drq _ _)
    fun _ full => nomatch (setDriveOut_resultFull _ _).symm.trans full⟩
  read s v k holds := ⟨bus_sequence.read s v k holds.1, holds.2.congr ⟨rfl, rfl, rfl, rfl, rfl, rfl, rfl⟩⟩
  result s holds := ⟨bus_sequence.result s holds.1,
    ⟨holds.2.phase.fits, holds.2.phase.latched, holds.2.phase.request_runs⟩, fun _ _ full => nomatch full⟩
  data s v d holds := ⟨bus_sequence.data s v d holds.1,
    ⟨holds.2.phase.fits, holds.2.phase.latched, fun asked => nomatch asked⟩, holds.2.answered⟩

end
end Sys2Proof.Machine
end

section
/-! PROOFS. The phases through the timer, the chunks and the rotations, and the statements about results
(60_exceptions.md R420, R421, R425). -/

namespace Sys2Proof.Machine

section
variable {results : Prop}

/-! ## The timer -/

theorem onTimer_phased {s t : State} {e : Nat} {h : List HostAction} (sequence : s.SequenceInv)
    (phased : s.Phased results) (armed : s.timer.isSome = true)
    (next : onTimer { s with host := h, epoch := e, timer := none } = .next t) : t.Phased results := by
  have timed : s.fsm.timed = true := sequence.timer_iff.symm.trans armed
  have running := (Fsm.running_of_timed timed).1
  have busy := (sequence.underway running).busy
  obtain ⟨op, command, _, drive⟩ := phased.drive running
  unfold onTimer at next
  dsimp only at next
  split at next
  case h_1 =>
    cases next
    exact phased.congr ⟨rfl, rfl, rfl, rfl, rfl, rfl, rfl⟩
  case h_2 =>
    split at next
    case isTrue seeking =>
      split at next
      · exact nomatch next
      · exact (seekStep_outcome next).phased busy seeking command drive
    case isFalse =>
      cases next
      exact phased.congr ⟨rfl, rfl, rfl, rfl, rfl, rfl, rfl⟩
  case h_3 =>
    cases next
    exact postSeek_phased busy command drive
  case h_4 code cont =>
    cases next
    have completing : s.fsm = .completing := by
      have matching := sequence.cont_matches
      rw [cont] at matching
      cases state : s.fsm <;> rw [state] at timed matching <;>
        first | rfl | exact absurd timed (by decide) | exact absurd matching (by simp [contMatches])
    refine phased_of_waiting (.inl (latch_fsm _ _)) (latch_drq _ _) fun _ _ other named _ => ?_
    rw [latch_command] at named
    rw [latch_result]
    exact phased.phase.latched code other completing cont named

/-! ## The slots of a chunk -/

theorem Received.phased {s t : State} (received : Received s t) (sequence : s.SequenceInv) (phased : s.Phased results) :
    t.Phased results := by
  have moves := received.moves
  cases received with
  | mk f sr n o c ds ic sk d q i l _ asks =>
    cases reads : s.fsm.reads with
    | false =>
      obtain ⟨rfl, _⟩ | ⟨_, _, _, reading⟩ := asks
      · exact phased.congr ⟨moves.1 reads, rfl, rfl, rfl, rfl, rfl, rfl⟩
      · exact nomatch reads.symm.trans reading
    | true =>
      obtain ⟨running, untimed, _⟩ := Fsm.reads_class (moves.2.1 reads)
      refine phased_of_running ?_ running (fun completing => ?_) (moves.2.2 phased.phase.fits)
      · exact (sequence.receiving reads).1.busy
      · rw [completing] at untimed
        exact nomatch untimed

theorem Taken.phased {s t : State} (taken : Taken s t) (sequence : s.SequenceInv) (phased : s.Phased results) :
    t.Phased results := by
  cases taken with
  | going _ received => exact received.phased sequence phased
  | ended code u reading received fits =>
    obtain ⟨op, command, _⟩ := phased.drive (Fsm.reads_class reading).1
    have underway := ((received.sequenceInv sequence).receiving (received.moves.2.1 reading)).1
    exact complete_phased underway.busy
      (mayEnd_of_receives (received.command.trans command) (fits op command phased.phase.fits))

theorem onSlots_phased (w : Slots) (k : Nat) {s : State} (sequence : s.SequenceInv) (phased : s.Phased results) :
    (onSlots w k s).Phased results := by
  unfold onSlots
  induction slotsOf w k generalizing s with
  | nil => exact phased
  | cons b bs ih =>
    exact ih ((onSlot_slotted s b).sequenceInv sequence) ((onSlot_taken s b).phased sequence phased)

/-! ## Recording -/

/-- The gate is raised and the first byte asked for: a recording begins. -/
theorem recording_phased {s u : State} (busy : s.busy = true) (writes : s.fsm.writes = true)
    (fits : phaseFits s.fsm s.command = true) (starts : u = request (raiseLines writeGateLine s)) :
    u.Phased results := by
  have same : u.busy = s.busy ∧ u.fsm = s.fsm ∧ u.command = s.command := by
    subst starts
    exact ⟨setDriveOut_busy _ s, setDriveOut_fsm _ s, setDriveOut_command _ s⟩
  obtain ⟨same_busy, same_fsm, same_command⟩ := same
  refine phased_of_running (same_busy.trans busy) ?_ ?_ (by rw [same_fsm, same_command]; exact fits) <;> rw [same_fsm] <;>
    rcases (Fsm.writes_iff s.fsm).mp writes with f | f <;> rw [f]
  exacts [rfl, rfl, nofun, nofun]

theorem readChunk_phased (w : Slots) (k : Nat) {s : State} (sequence : s.SequenceInv) (phased : s.Phased results) :
    (readChunk w k s).Phased results := by
  have read := onSlots_phased w k sequence phased
  have order := (onSlots_slotted w k s).sequenceInv sequence
  unfold readChunk
  dsimp only
  split
  case isTrue begins =>
    have fits := read.phase.fits
    rw [begins.1] at fits
    refine recording_phased (s := { onSlots w k s with fsm := .writeData, wr := _ }) ?_ rfl fits rfl
    exact (order.underway (by rw [begins.1]; rfl)).busy
  case isFalse => exact read

theorem countUnload_samePhase (s : State) : SamePhase s (countUnload s) := by
  unfold countUnload
  split
  · exact ⟨rfl, rfl, rfl, rfl, rfl, rfl, rfl⟩
  · split
    · exact ⟨clearLines_fsm _ _, clearLines_command _ _, clearLines_cont _ _, clearLines_drq _ _, clearLines_busy _ _,
        clearLines_resultFull _ _, clearLines_result _ _⟩
    · exact ⟨rfl, rfl, rfl, rfl, rfl, rfl, rfl⟩

/-- A format is the command of the states only a format can be in. -/
theorem command_of_formatWrite {s : State} (writing : s.fsm = .formatWrite) (phased : s.Phased results) :
    s.command = some .format := by
  have fits := phased.phase.fits
  rw [writing] at fits
  exact beq_iff_eq.mp fits

theorem onIndexEdge_phased {s : State} (sequence : s.SequenceInv) (phased : s.Phased results) :
    (onIndexEdge s).Phased results := by
  have counted : (countIndex s).Phased results := phased.congr ⟨rfl, rfl, rfl, rfl, rfl, rfl, rfl⟩
  have busy (running : s.fsm.running = true) : s.busy = true := (sequence.underway running).busy
  cases state : s.fsm
  case idle | params =>
    rw [onIndexEdge_unloads (by simp [state])]
    exact phased.congr (countUnload_samePhase s)
  case searchId =>
    rw [onIndexEdge_searchId state]
    split
    · obtain ⟨op, command, fits, _⟩ := phased.drive (by rw [state]; rfl)
      have receives := receiveFits_common (cmd := some op) (f := .searchId) (code := 0x18) rfl (by decide)
      rw [state] at fits
      exact complete_phased (busy (by rw [state]; rfl)) (mayEnd_of_receives (by exact command) (receives op rfl fits))
    · exact counted
  case inId | searchData =>
    rw [onIndexEdge_counts (by simp [state])]
    exact counted
  case formatWaitIndex =>
    rw [onIndexEdge_formatWaitIndex state]
    have fits := phased.phase.fits
    rw [state] at fits
    exact recording_phased (s := { s with fsm := .formatWrite, wr := _ }) (busy (by rw [state]; rfl)) rfl fits rfl
  case formatWrite =>
    rw [onIndexEdge_formatWrite state]
    split
    · have command := command_of_formatWrite state phased
      exact complete_phased (busy (by rw [state]; rfl)) (mayEnd_of_flagless command rfl (.inl rfl) (by decide))
    · exact phased
  all_goals
    rw [onIndexEdge_ignored (by simp [state])]
    exact phased

theorem sampleIndex_phased (n : DriveId) {s : State} (sequence : s.SequenceInv) (phased : s.Phased results) :
    (sampleIndex n s).Phased results := by
  have sampled : State.Phased results { s with lastIndex := s.index n } :=
    phased.congr ⟨rfl, rfl, rfl, rfl, rfl, rfl, rfl⟩
  rw [sampleIndex_eq]
  split
  · exact onIndexEdge_phased (sequence.congr ⟨rfl, rfl, rfl, rfl, rfl, rfl, rfl⟩ sequence.line_follows) sampled
  · exact sampled

/-- A command that records is a write command or a format. -/
theorem State.Phased.recording {s : State} (phased : s.Phased results) (writes : s.fsm.writes = true) :
    ∃ op, s.command = some op ∧ phaseFits s.fsm (some op) = true ∧ op.isDrive = true ∧ op.inReadFamily = false
      ∧ 0x0A ∈ possibleResults op ∧ 0x00 ∈ possibleResults op := by
  have recording := (Fsm.writes_iff s.fsm).mp writes
  obtain ⟨op, command, fits, drive⟩ := phased.drive (by rcases recording with f | f <;> rw [f] <;> rfl)
  refine ⟨op, command, fits, drive, ?_⟩
  rcases recording with f | f <;> rw [f] at fits <;> revert fits <;> cases op <;> decide

theorem endWrite_phased {s : State} (sequence : s.SequenceInv) (phased : s.Phased results) :
    (endWrite s).Phased results := by
  unfold endWrite
  split
  case isTrue ends =>
    obtain ⟨op, command, fits, drive, flagless, _, possible⟩ := phased.recording (by rw [ends.1]; rfl)
    have busy := (sequence.underway (by rw [ends.1]; rfl)).busy
    have still_busy : (clearLines writeGateLine s).busy = true := (clearLines_busy _ s).trans busy
    have same_command : (clearLines writeGateLine s).command = some op := (clearLines_command _ s).trans command
    generalize clearLines writeGateLine s = u at still_busy same_command
    by_cases last : u.op.count - 1 = 0
    · rw [nextSector_last last]
      exact complete_phased still_busy (mayEnd_of_flagless (by exact same_command) drive (.inl flagless) possible)
    · rw [nextSector_more last]
      refine phased_of_running still_busy rfl nofun ?_
      show phaseFits .searchId u.command = true
      rw [same_command]
      rw [ends.1] at fits
      cases op <;> first | rfl | exact absurd fits (by decide)
  case isFalse => exact phased

theorem dropSlots_samePhase {n : DriveId} {w : Slots} {j : Nat} {s v : State} (k : Nat)
    (written : writePulses n w j s = some v) : SamePhase s (v.dropSlots k) := by
  rw [writePulses_frame written]
  exact ⟨rfl, rfl, rfl, rfl, rfl, rfl, rfl⟩

theorem emit_phased {n : DriveId} {k : Nat} {s t : State} (sequence : s.SequenceInv) (phased : s.Phased results)
    (writes : s.fsm.writes = true) (next : emit n k s = .next t) : t.Phased results := by
  have encoded := encodeNext_encoded k s
  have order := encoded.sequenceInv sequence
  obtain ⟨op, command, _, drive, flagless, late, _⟩ := phased.recording writes
  obtain ⟨running, goes_on⟩ : s.fsm.running = true ∧ s.fsm ≠ .completing := by
    rcases (Fsm.writes_iff s.fsm).mp writes with f | f <;> rw [f] <;> exact ⟨rfl, nofun⟩
  have busy : (encodeNext k s).1.busy = true := (order.underway (by rw [encoded.fsm]; exact running)).busy
  have same_command : (encodeNext k s).1.command = s.command := by
    rw [encoded.rest]
    rfl
  rcases emit_next next with ⟨_, rfl⟩ | ⟨_, v, written, rfl⟩
  · exact complete_phased busy (mayEnd_of_flagless (same_command.trans command) drive (.inl flagless) late)
  · have still : (encodeNext k s).1.Phased results :=
      phased_of_running busy (by rw [encoded.fsm]; exact running) (by rw [encoded.fsm]; exact goes_on)
        (by rw [encoded.fsm, same_command]; exact phased.phase.fits)
    have frame := writePulses_frame written
    refine endWrite_phased (order.congr ?_ ?_) (still.congr ?_)
    · constructor <;> (show _ = _; rw [State.dropSlots, frame])
    · show v.intLine = v.irq
      rw [frame]
      exact order.line_follows
    · exact dropSlots_samePhase k written

/-! ## A rotation -/

theorem delivering_samePhase (n : DriveId) (s : State) : SamePhase s (delivering n s) := by
  have word : SamePhase s (deliveredWord n s).2 := by
    rcases (deliveredWord_delivers n s).2 with same | drawn
    · rw [same]
      exact ⟨rfl, rfl, rfl, rfl, rfl, rfl, rfl⟩
    · rw [drawn]
      exact ⟨rfl, rfl, rfl, rfl, rfl, rfl, rfl⟩
  cases n <;> exact ⟨word.fsm, word.command, word.cont, word.drq, word.busy, word.full, word.result⟩

theorem onRotation_phased {n : DriveId} {s t : State} (sequence : s.SequenceInv) (phased : s.Phased results)
    (next : onRotation n s = .next t) : t.Phased results := by
  rcases onRotation_next next with rfl | ⟨w, len, u, taken, rfl⟩
  · cases n <;> exact phased.congr ⟨rfl, rfl, rfl, rfl, rfl, rfl, rfl⟩
  have order := delivering_sequenceInv n sequence
  have delivered := phased.congr (delivering_samePhase n s)
  have pulsed : u.Phased results := by
    rcases onPulses_next taken with rfl | ⟨_, ⟨_, rfl⟩ | ⟨writes, emitted⟩⟩
    · exact delivered
    · exact readChunk_phased _ _ (sampleIndex_sequenceInv n order) (sampleIndex_phased n order delivered)
    · exact emit_phased (sampleIndex_sequenceInv n order) (sampleIndex_phased n order delivered) writes emitted
  obtain ⟨_, _, _, turned⟩ := advanceHead_frame n len u
  rw [turned]
  exact pulsed.congr ⟨rfl, rfl, rfl, rfl, rfl, rfl, rfl⟩

/-! ## The statements -/

theorem step_phased {s t : State} (sequence : s.SequenceInv) (phased : s.Phased results) (next : step s = .next t) :
    t.Phased results := by
  have same {u : State} (same : SamePhase s u) : u.Phased results := phased.congr same
  cases step_event next with
  | rests => exact phased
  | access _ rest _ _ _ run =>
    exact (exec_leadsTo bus_phased run ⟨sequence.later rest, by exact same ⟨rfl, rfl, rfl, rfl, rfl, rfl, rfl⟩⟩).2
  | timer _ _ _ armed run => exact onTimer_phased sequence phased (by rw [armed]; rfl) run
  | rotation n _ _ _ _ run =>
    exact onRotation_phased (by exact sequence.congr ⟨rfl, rfl, rfl, rfl, rfl, rfl, rfl⟩ sequence.line_follows)
      (by exact same ⟨rfl, rfl, rfl, rfl, rfl, rfl, rfl⟩) run
  | loads n => cases n <;> exact same ⟨rfl, rfl, rfl, rfl, rfl, rfl, rfl⟩
  | resets => exact (bus_phased.reset _ ⟨sequence.later _, by exact same ⟨rfl, rfl, rfl, rfl, rfl, rfl, rfl⟩⟩).2
  | clock | builds | protects => exact same ⟨rfl, rfl, rfl, rfl, rfl, rfl, rfl⟩

end

/-- Settles O55: every event of a step keeps the phase. -/
theorem stepKeepsThePhase : Obligations.StepKeepsThePhase := fun _ _ sequence phase next =>
  (step_phased (results := False) sequence ⟨phase, nofun⟩ next).phase

/-- Settles O49: while a command runs no result of it stands, so the one that stands after the step is sound. -/
theorem resultsAreThoseOfTheClass : Obligations.ResultsAreThoseOfTheClass := by
  intro s t op sequence phase next busy not_busy full command drive
  have before : s.Phased True := ⟨phase, fun _ idle => nomatch busy.symm.trans idle⟩
  exact (step_phased sequence before next).answered trivial not_busy full op command drive

end Sys2Proof.Machine
end

section
/-! PROOFS. The ranges of 10_state.md (R26, R32 to R39, R55), in two parts: those of the world, which each elementary
change keeps, and those of the controller's work. -/

namespace Sys2Proof.Machine

/-! ## The world: the heads' tracks, the unload countdown, the queue of slots -/

/-- The parameters are `c`, the queue is short between chunks, a countdown is of 1 to 14 edges, and every head is on a
track there is. -/
structure WorldRange (c : Params) (s : State) : Prop where
  cfg : s.cfg = c
  fifo_short : s.wr.fifo.length ≤ 31
  unload_range : ∀ k, s.unload = some k → 1 ≤ k ∧ k ≤ 14
  phys_range : 1 ≤ c.maxTrack → ∀ n, (s.drive n).phys < c.maxTrack

theorem WorldRange.congr {c : Params} {s t : State} (world : WorldRange c s) (cfg : t.cfg = s.cfg) (wr : t.wr = s.wr)
    (unload : t.unload = s.unload) (phys : SameTracks s t) : WorldRange c t where
  cfg := cfg.trans world.cfg
  fifo_short := by rw [wr]; exact world.fifo_short
  unload_range := by rw [unload]; exact world.unload_range
  phys_range tracks n := by rw [phys n]; exact world.phys_range tracks n

/-- A write of the port leaves the countdown or ends it (43_command_protocol.md R207). -/
theorem setDriveOut_worldRange {c : Params} (v : Byte) {s : State} (world : WorldRange c s) :
    WorldRange c (setDriveOut v s) where
  cfg := (setDriveOut_cfg v s).trans world.cfg
  fifo_short := by rw [setDriveOut_wr]; exact world.fifo_short
  unload_range k counting := by
    rw [setDriveOut_unload] at counting
    split at counting
    · exact nomatch counting
    · exact world.unload_range k counting
  phys_range tracks n := by
    rw [setDriveOut_sameTracks v s n]
    exact world.phys_range tracks n

theorem steppedTrack_lt {c : Params} (tracks : 1 ≤ c.maxTrack) (double dirIn : Bool) (phys : Nat) :
    steppedTrack c double dirIn phys < c.maxTrack := by
  have clamped : steppedTrack c double dirIn phys ≤ c.maxTrack - 1 := Nat.min_le_right _ _
  omega

/-- A step pulse leaves the head on a track there is (40_environment.md R134). -/
theorem seekTrack_worldRange {c : Params} (n : DriveId) (dirIn : Bool) {s : State} (world : WorldRange c s) :
    WorldRange c (seekTrack n dirIn s) := by
  obtain ⟨_, _, _, moved⟩ := seekTrack_frame n dirIn s
  refine ⟨?_, ?_, ?_, fun tracks m => ?_⟩
  · rw [moved]
    exact world.cfg
  · rw [moved]
    exact world.fifo_short
  · rw [moved]
    exact world.unload_range
  · rw [seekTrack_drive]
    split
    · rw [← world.cfg] at tracks ⊢
      exact steppedTrack_lt tracks _ _ _
    · exact world.phys_range tracks m

theorem advanceHead_worldRange {c : Params} (n : DriveId) (len : Nat) {s : State} (world : WorldRange c s) :
    WorldRange c (advanceHead n len s) := by
  obtain ⟨_, _, _, turned⟩ := advanceHead_frame n len s
  refine world.congr (by rw [turned]) (by rw [turned]) (by rw [turned]) fun m => ?_
  rw [advanceHead_drive_kept]

theorem setDrive_sameTracks {n : DriveId} {d : Drive} {s : State} (phys : d.phys = (s.drive n).phys) :
    SameTracks s (s.setDrive n d) := by
  intro m
  rw [setDrive_drive]
  split
  case isTrue same => rw [same, phys]
  case isFalse => rfl

theorem Change.worldRange {c : Params} {s t : State} (change : Change s t) (world : WorldRange c s) :
    WorldRange c t := by
  cases change with
  | control _ same =>
    refine ⟨same.cfg.trans world.cfg, same.fifo world.fifo_short, ?_, fun tracks n => ?_⟩
    · rw [same.unload]
      exact world.unload_range
    · rw [same.drive n]
      exact world.phys_range tracks n
  | port v => exact setDriveOut_worldRange v world
  | countdown u range =>
    exact ⟨world.cfg, world.fifo_short, range fun k counting => (world.unload_range k counting).2, world.phys_range⟩
  | arm | disarm => exact ⟨world.cfg, world.fifo_short, world.unload_range, world.phys_range⟩
  | pulse n dirIn => exact seekTrack_worldRange n dirIn world
  | record n w k _ written =>
    have frame := writePulses_frame written
    refine world.congr (by rw [frame]) (by rw [frame]) (by rw [frame]) fun m => ?_
    rw [writePulses_drive written]
  | rearm n => cases n <;> exact world.congr rfl rfl rfl fun m => by cases m <;> rfl
  | turn n len => exact advanceHead_worldRange n len world
  | clock => exact ⟨world.cfg, world.fifo_short, world.unload_range, world.phys_range⟩
  | build => exact ⟨world.cfg, world.fifo_short, world.unload_range, world.phys_range⟩
  | load n k =>
    exact world.congr (setDrive_cfg _ _ _) (setDrive_wr _ _ _) (setDrive_unload _ _ _) (setDrive_sameTracks rfl)
  | protect => exact ⟨world.cfg, world.fifo_short, world.unload_range, world.phys_range⟩

/-- Every step keeps the ranges of the world, and the parameters. -/
theorem step_worldRange {c : Params} {s t : State} (next : step s = .next t) (world : WorldRange c s) :
    WorldRange c t :=
  step_keeps (fun _ _ => Change.worldRange) next world

/-! ## The controller's work -/

/-- The states of a capture, whose counts have ranges of their own. -/
def Fsm.captures : Fsm → Bool
  | .inId | .searchData | .inData | .writeSkipGap2 => true
  | .idle | .params | .seekStep | .seekSettle | .searchId | .writeData | .formatWaitIndex | .formatWrite
  | .completing => false

/-- The ranges that hold in every FSM state. -/
structure LooseRange (s : State) : Prop where
  params_range : s.params.length ≤ 5 ∧ s.nexp ≤ 5
  window_range : s.cfg.wf = true → s.nbits ≤ s.cfg.dataMarkWindow
  size_range : ∃ j, j ≤ 7 ∧ s.op.size = 128 * 2 ^ j
  count_range : s.op.count ≤ 255
  steps_range : s.cfg.recalStepLimit ≤ 255 → s.seek.steps ≤ 255
  id_range : s.cap.idb.length ≤ 6

/-- The ranges of the states that capture, with `left` slots of a chunk still to come: between chunks the skip of gap 2
has passed fewer slots than its 11 bytes, within a chunk it may go past them (45_bitstream.md R271). -/
structure CaptureRange (left : Nat) (s : State) : Prop where
  byte_range : s.cfg.wf = true → s.fsm = .inId ∨ s.fsm = .inData → s.nbits < 32
  search_range : s.cfg.wf = true → s.fsm = .searchData → s.nbits < s.cfg.dataMarkWindow
  skip_range : s.cfg.wf = true → s.fsm = .writeSkipGap2 →
    s.nbits + left < 32 * 12 ∧ (s.wr.skipDone = true ↔ 32 * 11 ≤ s.nbits)
  id_range : s.fsm = .inId → s.cap.idb.length < 6
  data_range : s.fsm = .inData → s.cap.nbytes < s.op.size + 2 ∧ s.cap.crcb.length = s.cap.nbytes - s.op.size

/-- The ranges of the controller's work, with `left` slots of a chunk still to come. -/
structure WorkRange (left : Nat) (s : State) : Prop where
  loose : LooseRange s
  capture : CaptureRange left s

theorem captureRange_of_elsewhere {left : Nat} {s : State} (elsewhere : s.fsm.captures = false) :
    CaptureRange left s := by
  have away {f : Fsm} (captures : f.captures = true) (state : s.fsm = f) : False := by
    rw [state, captures] at elsewhere
    exact nomatch elsewhere
  exact ⟨fun _ field => (field.elim (away rfl) (away rfl)).elim, fun _ search => (away rfl search).elim,
    fun _ skips => (away rfl skips).elim, fun id => (away rfl id).elim, fun data => (away rfl data).elim⟩

theorem LooseRange.elsewhere {left : Nat} {s : State} (loose : LooseRange s) (elsewhere : s.fsm.captures = false) :
    WorkRange left s := ⟨loose, captureRange_of_elsewhere elsewhere⟩

/-- The ranges between chunks, of the world and of the work. -/
theorem rangeInv_iff (s : State) : s.RangeInv ↔ WorldRange s.cfg s ∧ WorkRange 32 s := by
  constructor
  · intro range
    refine ⟨⟨rfl, range.fifo_short, range.unload_range, range.phys_range⟩,
      ⟨range.params_range, fun wf => (range.slots_range wf).1, range.size_range, range.count_range, range.steps_range,
        range.id_range.1⟩,
      ⟨fun wf => (range.slots_range wf).2.1, fun wf => (range.slots_range wf).2.2.1, fun wf skips => ?_,
        range.id_range.2, range.data_range⟩⟩
    obtain ⟨passed, not_done⟩ := (range.slots_range wf).2.2.2 skips
    refine ⟨by omega, fun done => (nomatch not_done.symm.trans done), fun reached => absurd reached (by omega)⟩
  · rintro ⟨world, loose, capture⟩
    refine ⟨loose.params_range, fun wf => ⟨loose.window_range wf, capture.byte_range wf, capture.search_range wf,
        fun skips => ?_⟩,
      loose.size_range, loose.count_range, loose.steps_range, ⟨loose.id_range, capture.id_range⟩, capture.data_range,
      world.fifo_short, world.unload_range, world.phys_range⟩
    obtain ⟨passed, done⟩ := capture.skip_range wf skips
    exact ⟨by omega, Bool.eq_false_iff.mpr fun skipped => absurd (done.mp skipped) (by omega)⟩

/-- What the ranges of the work rest on. -/
structure SameWork (s t : State) : Prop where
  cfg : t.cfg = s.cfg
  params : t.params = s.params
  nexp : t.nexp = s.nexp
  fsm : t.fsm = s.fsm
  nbits : t.nbits = s.nbits
  op : t.op = s.op
  seek : t.seek = s.seek
  cap : t.cap = s.cap
  skip : t.wr.skipDone = s.wr.skipDone

theorem LooseRange.congr {s t : State} (loose : LooseRange s) (cfg : t.cfg = s.cfg) (params : t.params = s.params)
    (nexp : t.nexp = s.nexp) (nbits : t.nbits = s.nbits) (op : t.op = s.op) (seek : t.seek = s.seek)
    (cap : t.cap = s.cap) : LooseRange t where
  params_range := by rw [params, nexp]; exact loose.params_range
  window_range := by rw [cfg, nbits]; exact loose.window_range
  size_range := by rw [op]; exact loose.size_range
  count_range := by rw [op]; exact loose.count_range
  steps_range := by rw [cfg, seek]; exact loose.steps_range
  id_range := by rw [cap]; exact loose.id_range

theorem WorkRange.congr {left : Nat} {s t : State} (work : WorkRange left s) (same : SameWork s t) :
    WorkRange left t where
  loose := work.loose.congr same.cfg same.params same.nexp same.nbits same.op same.seek same.cap
  capture := {
    byte_range := by rw [same.cfg, same.fsm, same.nbits]; exact work.capture.byte_range
    search_range := by rw [same.cfg, same.fsm, same.nbits]; exact work.capture.search_range
    skip_range := by rw [same.cfg, same.fsm, same.nbits, same.skip]; exact work.capture.skip_range
    id_range := by rw [same.fsm, same.cap]; exact work.capture.id_range
    data_range := by rw [same.fsm, same.cap, same.op]; exact work.capture.data_range }

/-- The parameters' bounds in numbers (00_scope.md R9). -/
theorem bounds_of_wf {c : Params} (wf : c.wf = true) : 576 ≤ c.dataMarkWindow ∧ c.gap2SkipBytes = 11 := by
  simp only [Params.wf, Bool.and_eq_true, decide_eq_true_eq] at wf
  obtain ⟨⟨⟨_, window⟩, skip⟩, _⟩ := wf
  exact ⟨window, skip⟩

/-! ## Completion -/

theorem complete_captures (code : Byte) (s : State) : (complete code s).fsm.captures = false := by
  obtain now | later := Nat.eq_zero_or_pos s.cfg.completionDelay
  · rw [complete_now code s now, latch_fsm]
    rfl
  · rw [complete_later code s later]
    rfl

theorem complete_workRange {left : Nat} (code : Byte) {s : State} (loose : LooseRange s) :
    WorkRange left (complete code s) :=
  (loose.congr (complete_cfg code s) (complete_params code s) (complete_nexp code s) (complete_nbits code s)
    (complete_op code s) (complete_seek code s) (complete_cap code s)).elsewhere (complete_captures code s)

theorem latch_workRange {left : Nat} (code : Byte) {s : State} (loose : LooseRange s) : WorkRange left (latch code s) :=
  (loose.congr (latch_cfg code s) (latch_params code s) (latch_nexp code s) (latch_nbits code s) (latch_op code s)
    (latch_seek code s) (latch_cap code s)).elsewhere (by rw [latch_fsm]; rfl)

/-- The search for the next ID begins or goes on. -/
theorem nextSector_workRange {left : Nat} {s : State} (loose : LooseRange s) : WorkRange left (nextSector s) := by
  have fewer : s.op.count - 1 ≤ 255 := (Nat.sub_le _ _).trans loose.count_range
  by_cases last : s.op.count - 1 = 0
  · rw [nextSector_last last]
    exact complete_workRange _
      ⟨loose.params_range, loose.window_range, loose.size_range, fewer, loose.steps_range, loose.id_range⟩
  · rw [nextSector_more last]
    refine LooseRange.elsewhere ?_ rfl
    exact ⟨loose.params_range, loose.window_range, loose.size_range, fewer, loose.steps_range, loose.id_range⟩

end Sys2Proof.Machine
end

section
/-! PROOFS. The ranges of the controller's work through the slots of a chunk (45_bitstream.md R273 to R282,
47_write_commands.md R343). -/

namespace Sys2Proof.Machine

/-! ## The end of a field -/

theorem research_workRange {left : Nat} {s : State} (loose : LooseRange s) : WorkRange left (research s) := by
  have searches : LooseRange { s with fsm := .searchId, sr := 0 } := loose.congr rfl rfl rfl rfl rfl rfl rfl
  unfold research
  dsimp only
  split
  · exact complete_workRange _ searches
  · exact searches.elsewhere rfl

theorem endReadId_workRange {left : Nat} {s : State} (loose : LooseRange s) : WorkRange left (endReadId s) := by
  have counted : LooseRange { s with op := { s.op with count := s.op.count - 1 } } :=
    ⟨loose.params_range, loose.window_range, loose.size_range, (Nat.sub_le _ _).trans loose.count_range,
      loose.steps_range, loose.id_range⟩
  unfold endReadId
  split
  · exact complete_workRange _ loose
  · split
    · exact complete_workRange _ loose
    · split
      · exact complete_workRange _ loose
      · dsimp only
        split
        · exact complete_workRange _ counted
        · exact LooseRange.elsewhere (s := beginSearch _) (counted.congr rfl rfl rfl rfl rfl rfl rfl) rfl

/-- A field begins with no slot counted. -/
theorem LooseRange.restarted {s t : State} (loose : LooseRange s) (cfg : t.cfg = s.cfg) (params : t.params = s.params)
    (nexp : t.nexp = s.nexp) (none_counted : t.nbits = 0) (op : t.op = s.op) (seek : t.seek = s.seek)
    (idb : t.cap.idb.length ≤ 6) : LooseRange t where
  params_range := by rw [params, nexp]; exact loose.params_range
  window_range _ := by rw [none_counted]; exact Nat.zero_le _
  size_range := by rw [op]; exact loose.size_range
  count_range := by rw [op]; exact loose.count_range
  steps_range := by rw [cfg, seek]; exact loose.steps_range
  id_range := idb

theorem endSoughtId_workRange {left : Nat} {s : State} (loose : LooseRange s) (chunk : left ≤ 32) :
    WorkRange left (endSoughtId s) := by
  unfold endSoughtId
  split
  · exact research_workRange loose
  · split
    · exact complete_workRange _ loose
    · split
      · exact research_workRange loose
      · split
        · refine ⟨loose.restarted rfl rfl rfl rfl rfl rfl loose.id_range,
            ⟨fun _ _ => Nat.zero_lt_succ 31, nofun,
              fun _ _ => ⟨?_, nofun, fun done => absurd (show 352 ≤ 0 from done) (by decide)⟩,
              nofun, nofun⟩⟩
          show 0 + left < 32 * 12
          omega
        · refine ⟨loose.restarted rfl rfl rfl rfl rfl rfl loose.id_range,
            ⟨fun _ _ => Nat.zero_lt_succ 31, fun wf _ => ?_, nofun, nofun, nofun⟩⟩
          obtain ⟨window, _⟩ := bounds_of_wf (c := s.cfg) wf
          show 0 < s.cfg.dataMarkWindow
          omega

theorem endId_workRange {left : Nat} {s : State} (loose : LooseRange s) (chunk : left ≤ 32) :
    WorkRange left (endId s) := by
  unfold endId
  split
  · exact endReadId_workRange loose
  · exact endSoughtId_workRange loose chunk

theorem endData_workRange {left : Nat} {s : State} (loose : LooseRange s) : WorkRange left (endData s) := by
  have noted : LooseRange { s with deletedSeen := s.deletedSeen || s.cap.deleted } :=
    loose.congr rfl rfl rfl rfl rfl rfl rfl
  unfold endData
  dsimp only
  split
  · exact complete_workRange _ noted
  · split
    · exact complete_workRange _ noted
    · split
      · exact complete_workRange _ noted
      · split
        · exact complete_workRange _ noted
        · exact nextSector_workRange noted

/-! ## The bytes of a field -/

theorem offer_sameWork (d : Byte) (s : State) : SameWork s (offer d s) := ⟨rfl, rfl, rfl, rfl, rfl, rfl, rfl, rfl, rfl⟩

/-- A byte more of an ID field, whose count of slots has begun again. -/
theorem LooseRange.inId {left : Nat} {s : State} (loose : LooseRange s) (field : s.fsm = .inId)
    (none_counted : s.nbits = 0) (more : s.cap.idb.length < 6) : WorkRange left s :=
  ⟨loose, fun _ _ => by rw [none_counted]; decide, fun _ search => (nomatch field.symm.trans search),
    fun _ skips => (nomatch field.symm.trans skips), fun _ => more, fun data => (nomatch field.symm.trans data)⟩

/-- A byte more of a data field, whose count of slots has begun again. -/
theorem LooseRange.inData {left : Nat} {s : State} (loose : LooseRange s) (field : s.fsm = .inData)
    (none_counted : s.nbits = 0)
    (more : s.cap.nbytes < s.op.size + 2 ∧ s.cap.crcb.length = s.cap.nbytes - s.op.size) : WorkRange left s :=
  ⟨loose, fun _ _ => by rw [none_counted]; decide, fun _ search => (nomatch field.symm.trans search),
    fun _ skips => (nomatch field.symm.trans skips), fun id => (nomatch field.symm.trans id), fun _ => more⟩

theorem idByte_workRange {left : Nat} (d : Byte) {s : State} (loose : LooseRange s) (chunk : left ≤ 32)
    (field : s.fsm = .inId) (none_counted : s.nbits = 0) (more : s.cap.idb.length < 6) :
    WorkRange left (idByte d s) := by
  have longer : (s.cap.idb ++ [d]).length = s.cap.idb.length + 1 := List.length_append
  have joined (c : Capture) (idb : c.idb = s.cap.idb ++ [d]) : LooseRange { s with cap := c } :=
    loose.restarted rfl rfl rfl none_counted rfl rfl (by rw [idb, longer]; exact more)
  have goes_on (c : Capture) (idb : c.idb = s.cap.idb ++ [d]) (inside : s.cap.idb.length < 5) :
      WorkRange left { s with cap := c } :=
    (joined c idb).inId field none_counted (by dsimp only; rw [idb, longer]; omega)
  obtain header | past := Nat.lt_or_ge s.cap.idb.length 4
  · rw [idByte_header header]
    split
    · split
      · exact complete_workRange _ (joined _ rfl)
      · exact (goes_on _ rfl (by omega)).congr (offer_sameWork d _)
    · exact goes_on _ rfl (by omega)
  · rw [idByte_crc past]
    split
    · exact endId_workRange (joined _ rfl) chunk
    · exact goes_on _ rfl (by omega)

theorem sectorByte_workRange {left : Nat} (d : Byte) {s : State} (work : WorkRange left s) (field : s.fsm = .inData)
    (none_counted : s.nbits = 0) : WorkRange left (sectorByte d s) := by
  have summed : WorkRange left { s with cap := { s.cap with crc := crcByte s.cap.crc d } } :=
    LooseRange.inData (work.loose.restarted rfl rfl rfl none_counted rfl rfl work.loose.id_range) field none_counted
      (work.capture.data_range field)
  unfold sectorByte
  dsimp only
  split
  · split
    · exact complete_workRange _ summed.loose
    · exact summed.congr (offer_sameWork d _)
  · exact summed

theorem dataByte_workRange {left : Nat} (d : Byte) {s : State} (loose : LooseRange s) (field : s.fsm = .inData)
    (none_counted : s.nbits = 0)
    (range : s.cap.nbytes < s.op.size + 2 ∧ s.cap.crcb.length = s.cap.nbytes - s.op.size) :
    WorkRange left (dataByte d s) := by
  obtain ⟨bytes, crcb⟩ := range
  have joined (c : Capture) (idb : c.idb = s.cap.idb) : LooseRange { s with cap := c } :=
    loose.restarted rfl rfl rfl none_counted rfl rfl (by rw [idb]; exact loose.id_range)
  obtain inside | past := Nat.lt_or_ge s.cap.nbytes s.op.size
  · rw [dataByte_sector inside]
    refine sectorByte_workRange d (LooseRange.inData (joined _ rfl) field none_counted ?_) field none_counted
    exact ⟨show s.cap.nbytes + 1 < s.op.size + 2 by omega,
      show s.cap.crcb.length = s.cap.nbytes + 1 - s.op.size by omega⟩
  · rw [dataByte_crc past]
    split
    · exact endData_workRange (joined _ rfl)
    · refine LooseRange.inData (joined _ rfl) field none_counted ⟨?_, ?_⟩
      · show s.cap.nbytes + 1 < s.op.size + 2
        omega
      · show (s.cap.crcb ++ [d]).length = s.cap.nbytes + 1 - s.op.size
        rw [List.length_append, List.length_singleton]
        omega

/-! ## The slots -/

theorem searchIdSlot_workRange {left : Nat} {s : State} (work : WorkRange left s) :
    WorkRange left (searchIdSlot s) := by
  unfold searchIdSlot
  split
  · exact LooseRange.inId (work.loose.restarted rfl rfl rfl rfl rfl rfl (Nat.zero_le _)) rfl rfl (Nat.zero_lt_succ _)
  · exact work

theorem startData_workRange {left : Nat} (deleted : Bool) {s : State} (loose : LooseRange s) :
    WorkRange left (startData deleted s) :=
  LooseRange.inData (loose.restarted rfl rfl rfl rfl rfl rfl loose.id_range) rfl rfl
    ⟨Nat.zero_lt_succ _, (Nat.zero_sub _).symm⟩

theorem searchDataSlot_workRange {left : Nat} {s : State} (work : WorkRange (left + 1) s) (search : s.fsm = .searchData) :
    WorkRange left (searchDataSlot s) := by
  have started (deleted : Bool) : WorkRange left (startData deleted s) := startData_workRange deleted work.loose
  have counted : LooseRange { s with nbits := s.nbits + 1 } :=
    ⟨work.loose.params_range, fun wf => work.capture.search_range wf search, work.loose.size_range,
      work.loose.count_range, work.loose.steps_range, work.loose.id_range⟩
  unfold searchDataSlot
  dsimp only
  split
  · exact started false
  · split
    · exact started true
    · split
      case isTrue => exact research_workRange counted
      case isFalse inside =>
        exact ⟨counted, fun _ field => (by rcases field with f | f <;> exact nomatch search.symm.trans f),
          fun _ _ => Nat.lt_of_not_le inside, fun _ skips => (nomatch search.symm.trans skips),
          fun id => (nomatch search.symm.trans id), fun data => (nomatch search.symm.trans data)⟩

theorem skipSlot_workRange {left : Nat} {s : State} (work : WorkRange (left + 1) s) (skips : s.fsm = .writeSkipGap2) :
    WorkRange left (skipSlot s) := by
  rw [skipSlot_eq]
  refine ⟨⟨work.loose.params_range, fun wf => ?_, work.loose.size_range, work.loose.count_range, work.loose.steps_range,
    work.loose.id_range⟩, fun _ field => (by rcases field with f | f <;> exact nomatch skips.symm.trans f),
    fun _ search => (nomatch skips.symm.trans search), fun wf _ => ?_, fun id => (nomatch skips.symm.trans id),
    fun data => (nomatch skips.symm.trans data)⟩ <;> obtain ⟨passed, done⟩ := work.capture.skip_range wf skips <;>
    obtain ⟨window, skip_bytes⟩ := bounds_of_wf (c := s.cfg) wf
  · show s.nbits + 1 ≤ s.cfg.dataMarkWindow
    omega
  · show s.nbits + 1 + left < 32 * 12 ∧ ((s.wr.skipDone || decide (s.nbits + 1 = s.cfg.gap2SkipBytes * 32)) = true
      ↔ 32 * 11 ≤ s.nbits + 1)
    rw [Bool.or_eq_true, decide_eq_true_iff, done, skip_bytes]
    omega

/-- A slot of a byte that is not its last one. -/
theorem counted_workRange {left : Nat} {sr : Slots} {s : State} (work : WorkRange (left + 1) s)
    (field : s.fsm = .inId ∨ s.fsm = .inData) (inside : s.nbits + 1 < 32) :
    WorkRange left { s with sr := sr, nbits := s.nbits + 1 } := by
  refine ⟨⟨work.loose.params_range, fun wf => ?_, work.loose.size_range, work.loose.count_range, work.loose.steps_range,
    work.loose.id_range⟩, fun _ _ => inside,
    fun _ search => (by rcases field with f | f <;> exact nomatch f.symm.trans search),
    fun _ skips => (by rcases field with f | f <;> exact nomatch f.symm.trans skips),
    work.capture.id_range, work.capture.data_range⟩
  obtain ⟨window, _⟩ := bounds_of_wf (c := s.cfg) wf
  show s.nbits + 1 ≤ s.cfg.dataMarkWindow
  omega

/-- One slot of a chunk, `left` slots after it. -/
theorem onSlot_workRange {left : Nat} (chunk : left ≤ 32) {s : State} (work : WorkRange (left + 1) s) (b : Bool) :
    WorkRange left (onSlot s b) := by
  have shifted {j : Nat} (before : WorkRange j s) : WorkRange j { s with sr := shiftIn s.sr b } :=
    before.congr ⟨rfl, rfl, rfl, rfl, rfl, rfl, rfl, rfl, rfl⟩
  have elsewhere (not_capturing : s.fsm.captures = false) : WorkRange left s := work.loose.elsewhere not_capturing
  cases state : s.fsm
  case searchId =>
    rw [onSlot_searchId state]
    exact searchIdSlot_workRange (shifted (elsewhere (by rw [state]; rfl)))
  case searchData =>
    rw [onSlot_searchData state]
    exact searchDataSlot_workRange (shifted work) state
  case writeSkipGap2 =>
    rw [onSlot_writeSkipGap2 state]
    exact skipSlot_workRange (shifted work) state
  case inId =>
    obtain inside | last := Nat.lt_or_ge (s.nbits + 1) 32
    · rw [onSlot_field_counts (.inl state) inside]
      exact counted_workRange work (.inl state) inside
    · rw [onSlot_inId_byte state last]
      exact idByte_workRange _ (work.loose.restarted rfl rfl rfl rfl rfl rfl work.loose.id_range) chunk state rfl
        (work.capture.id_range state)
  case inData =>
    obtain inside | last := Nat.lt_or_ge (s.nbits + 1) 32
    · rw [onSlot_field_counts (.inr state) inside]
      exact counted_workRange work (.inr state) inside
    · rw [onSlot_inData_byte state last]
      exact dataByte_workRange _ (work.loose.restarted rfl rfl rfl rfl rfl rfl work.loose.id_range) state rfl
        (work.capture.data_range state)
  all_goals
    rw [onSlot_idle s b (by rw [state]; rfl)]
    exact shifted (elsewhere (by rw [state]; rfl))

theorem foldl_onSlot_workRange (bs : List Bool) (chunk : bs.length ≤ 32) {s : State} (work : WorkRange bs.length s) :
    WorkRange 0 (bs.foldl onSlot s) := by
  induction bs generalizing s with
  | nil => exact work
  | cons b bs ih =>
    rw [List.length_cons] at chunk work
    exact ih (by omega) (onSlot_workRange (by omega) work b)

/-- A chunk read: a skip of gap 2 that is done gives way to the recording (45_bitstream.md R271). -/
theorem readChunk_workRange (w : Slots) {s : State} (work : WorkRange 32 s) : WorkRange 32 (readChunk w 32 s) := by
  have length : (slotsOf w 32).length = 32 := slotsOf_length w 32
  have read : WorkRange 0 (onSlots w 32 s) := foldl_onSlot_workRange _ (by rw [length]) (by rw [length]; exact work)
  unfold readChunk
  dsimp only
  generalize onSlots w 32 s = t at read
  split
  case isTrue =>
    refine LooseRange.elsewhere ?_ (by rw [startWrite_fsm]; rfl)
    exact read.loose.congr (setDriveOut_cfg _ _) (setDriveOut_params _ _) (setDriveOut_nexp _ _) (setDriveOut_nbits _ _)
      (setDriveOut_op _ _) (setDriveOut_seek _ _) (setDriveOut_cap _ _)
  case isFalse goes_on =>
    refine ⟨read.loose, read.capture.byte_range, read.capture.search_range, fun wf skips => ?_, read.capture.id_range,
      read.capture.data_range⟩
    obtain ⟨_, done⟩ := read.capture.skip_range wf skips
    have inside : ¬ 32 * 11 ≤ t.nbits := fun reached => goes_on ⟨skips, done.mpr reached⟩
    exact ⟨by omega, done⟩

end Sys2Proof.Machine
end

section
/-! PROOFS. The ranges of the controller's work through the commands, the timer and the rotations (10_state.md R26, R32
to R35). -/

namespace Sys2Proof.Machine

/-! ## A command's start -/

theorem operandsOf_size (op : Op) (p : Nat → Byte) {o : Operands} (size : ∃ j, j ≤ 7 ∧ o.size = 128 * 2 ^ j) :
    ∃ j, j ≤ 7 ∧ (operandsOf op p o).size = 128 * 2 ^ j := by
  have named (z : Byte) : ∃ j, j ≤ 7 ∧ sizeOf z = 128 * 2 ^ j := ⟨z.toNat / 32, by omega, sizeOf_eq z⟩
  cases op
  case read128 | readDel128 | verify128 | write128 | writeDel128 => exact ⟨0, by decide, rfl⟩
  case readVar | readDelVar | verifyVar | writeVar | writeDelVar | format => exact named _
  all_goals exact size

theorem operandsOf_count (op : Op) (p : Nat → Byte) {o : Operands} (count : o.count ≤ 255) :
    (operandsOf op p o).count ≤ 255 := by
  have named (z : Byte) : countOf z ≤ 255 := by
    rw [countOf_eq]
    omega
  cases op
  case read128 | readDel128 | verify128 | write128 | writeDel128 => exact (by decide : 1 ≤ 255)
  case readVar | readDelVar | verifyVar | writeVar | writeDelVar | format => exact named _
  case readId => exact Nat.le_of_lt_succ (p 2).isLt
  all_goals exact count

theorem setOperands_loose (op : Op) {s : State} (loose : LooseRange s) : LooseRange (setOperands op s) :=
  ⟨loose.params_range, loose.window_range, operandsOf_size op _ loose.size_range,
    operandsOf_count op _ loose.count_range,
    loose.steps_range, loose.id_range⟩

theorem headDown_loose {s : State} (loose : LooseRange s) : LooseRange (headDown s) := by
  obtain ⟨_, _, _, _, loaded⟩ := loadHead_frame { s with deletedSeen := false }
  rw [headDown, loaded]
  exact ⟨loose.params_range, loose.window_range, loose.size_range, loose.count_range, loose.steps_range, loose.id_range⟩

/-- A seek needs no more steps than a byte holds, and a recalibrate those of its limit (44_seek.md R241). -/
theorem planSeek_steps (n : DriveId) {s : State} (limit : s.cfg.recalStepLimit ≤ 255) : (planSeek n s).steps ≤ 255 := by
  have target := (adjust s.regs n s.op.reqTrack).isLt
  have here := (s.regs.track n).isLt
  unfold planSeek
  dsimp only
  split
  · exact limit
  · dsimp only
    split <;> omega

theorem seekPlanned_loose (n : DriveId) {s : State} (loose : LooseRange s) : LooseRange (seekPlanned n s) := by
  obtain ⟨_, _, _, _, _, planned⟩ := seekPlanned_frame n s
  rw [planned]
  exact ⟨loose.params_range, loose.window_range, loose.size_range, loose.count_range,
    fun limit => planSeek_steps n (s := s) limit, loose.id_range⟩

theorem postSeek_workRange {left : Nat} {s : State} (loose : LooseRange s) : WorkRange left (postSeek s) := by
  unfold postSeek
  split
  · exact complete_workRange _ loose
  · split
    · exact LooseRange.elsewhere (s := { s with fsm := .formatWaitIndex }) (loose.congr rfl rfl rfl rfl rfl rfl rfl) rfl
    · exact LooseRange.elsewhere (s := beginSearch s) (loose.congr rfl rfl rfl rfl rfl rfl rfl) rfl

theorem SeekOutcome.workRange {left : Nat} {n : DriveId} {s t : State} (outcome : SeekOutcome n s t)
    (loose : LooseRange s) (seeking : s.fsm = .seekStep) : WorkRange left t := by
  cases outcome with
  | steps =>
    obtain ⟨_, _, _, moved⟩ := seekTrack_frame n s.seek.dirIn s
    have stepped : LooseRange (stepIssued n s) := by
      rw [stepIssued, moved]
      exact ⟨loose.params_range, loose.window_range, loose.size_range, loose.count_range,
        fun limit => (Nat.sub_le _ _).trans (loose.steps_range limit), loose.id_range⟩
    refine stepped.elsewhere ?_
    rw [stepIssued, moved]
    exact congrArg Fsm.captures seeking
  | waits =>
    exact LooseRange.elsewhere (s := settlingFor _ (landed n s)) (loose.congr rfl rfl rfl rfl rfl rfl rfl) rfl
  | goesOn => exact postSeek_workRange (loose.congr rfl rfl rfl rfl rfl rfl rfl)

theorem Starts.workRange {left : Nat} {op : Op} {n : DriveId} {s t : State} (starts : Starts op n s t)
    (loose : LooseRange s) : WorkRange left t := by
  have down := headDown_loose loose
  cases starts with
  | notReady => exact complete_workRange _ down
  | writeProtected => exact complete_workRange _ down
  | seeks _ outcome => exact outcome.workRange (seekPlanned_loose n down) rfl

/-! ## The bus -/

theorem setDriveOut_loose (v : Byte) {s : State} (loose : LooseRange s) : LooseRange (setDriveOut v s) :=
  loose.congr (setDriveOut_cfg v s) (setDriveOut_params v s) (setDriveOut_nexp v s) (setDriveOut_nbits v s)
    (setDriveOut_op v s) (setDriveOut_seek v s) (setDriveOut_cap v s)

theorem selectFromCommand_loose {s : State} (loose : LooseRange s) : LooseRange (selectFromCommand s) := by
  obtain ⟨_, _, _, _, _, _, selection⟩ := selectFromCommand_frame s
  rw [selection]
  exact loose.congr rfl rfl rfl rfl rfl rfl rfl

/-- A management command ends in the idle state. -/
theorem finishMgmt_workRange {left : Nat} (answer : Option Byte) {s : State} (loose : LooseRange s) :
    WorkRange left (finishMgmt answer s) := by
  cases answer with
  | none => exact LooseRange.elsewhere (s := finishMgmt none s) (loose.congr rfl rfl rfl rfl rfl rfl rfl) rfl
  | some v => exact LooseRange.elsewhere (s := finishMgmt (some v) s) (loose.congr rfl rfl rfl rfl rfl rfl rfl) rfl

theorem Runs.workRange {left : Nat} {op : Op} {s t : State} (runs : Runs op s t) (loose : LooseRange s) :
    WorkRange left t := by
  cases runs with
  | answers v => exact finishMgmt_workRange _ loose
  | setsRegisters r =>
    exact finishMgmt_workRange none (s := { s with regs := r }) (loose.congr rfl rfl rfl rfl rfl rfl rfl)
  | writesPort v => exact finishMgmt_workRange none (setDriveOut_loose v loose)
  | starts n _ _ _ starts => exact starts.workRange (setOperands_loose op loose)

theorem acceptCommand_workRange {left : Nat} {v : Byte} {s t : State} (next : acceptCommand v s = .next t)
    (loose : LooseRange s) : WorkRange left t := by
  obtain ⟨_, op, _, accepted⟩ := acceptCommand_next next
  have five : op.params ≤ 5 := by cases op <;> decide
  have taken : LooseRange (commandAccepted v op s) :=
    ⟨⟨Nat.zero_le 5, five⟩, loose.window_range, loose.size_range, loose.count_range, loose.steps_range, loose.id_range⟩
  rcases accepted with ⟨params, rfl⟩ | ⟨rfl, answer, rfl⟩
  · exact taken.elsewhere (congrArg Fsm.captures (if_neg params))
  · exact finishMgmt_workRange _ (selectFromCommand_loose taken)

theorem acceptParameter_workRange {left : Nat} {v : Byte} {s t : State} (next : acceptParameter v s = .next t)
    (sequence : s.SequenceInv) (loose : LooseRange s) : WorkRange left t := by
  obtain ⟨collecting, outcome⟩ := acceptParameter_next next
  have joined : LooseRange (collected v s) := by
    refine ⟨⟨?_, loose.params_range.2⟩, loose.window_range, loose.size_range, loose.count_range, loose.steps_range,
      loose.id_range⟩
    show (s.params ++ [v]).length ≤ 5
    rw [List.length_append, List.length_singleton]
    exact (sequence.params_missing collecting).trans_le loose.params_range.2
  rcases outcome with ⟨_, rfl⟩ | ⟨_, op, _, runs⟩
  · exact joined.elsewhere (congrArg Fsm.captures collecting)
  · exact runs.workRange (selectFromCommand_loose joined)

theorem resetController_workRange {left : Nat} (s : State) : WorkRange left (resetController s) := by
  refine LooseRange.elsewhere (s := resetController s) ?_ (congrArg Fsm.captures (setDriveOut_fsm _ _))
  have drawn {u : State} (params : u.params = [] ∧ u.nexp = 0 ∧ u.nbits = 0)
      (size : ∃ j, j ≤ 7 ∧ u.op.size = 128 * 2 ^ j) (count : u.op.count ≤ 255) (steps : u.seek.steps ≤ 255)
      (idb : u.cap.idb.length ≤ 6) : LooseRange u := by
    obtain ⟨no_params, none_expected, none_counted⟩ := params
    refine ⟨by rw [no_params, none_expected]; decide, fun _ => ?_, size, count, fun _ => steps, idb⟩
    rw [none_counted]
    exact Nat.zero_le _
  exact (setDriveOut_loose 0 (drawn ⟨rfl, rfl, rfl⟩ (drawnOperands_size _) (drawnOperands_count _) (drawnSeek_steps _)
    (drawnCapture_idb _ _))).congr rfl rfl rfl rfl rfl rfl rfl

/-- Every access of the bus keeps the sequencing and the ranges of the work. -/
theorem bus_workRange :
    BusLeads (fun s => s.SequenceInv ∧ WorkRange 32 s) (fun s => s.SequenceInv ∧ WorkRange 32 s) where
  command v s t next holds := ⟨bus_sequence.command v s t next holds.1, acceptCommand_workRange next holds.2.loose⟩
  parameter v s t next holds :=
    ⟨bus_sequence.parameter v s t next holds.1, acceptParameter_workRange next holds.1 holds.2.loose⟩
  parameters v s t next holds :=
    ⟨bus_sequence.parameter v s t next holds.1, acceptParameter_workRange next holds.1 holds.2.loose⟩
  reset s _ := ⟨resetController_sequenceInv s, resetController_workRange s⟩
  read s v k holds := ⟨bus_sequence.read s v k holds.1, holds.2.congr ⟨rfl, rfl, rfl, rfl, rfl, rfl, rfl, rfl, rfl⟩⟩
  result s holds := ⟨bus_sequence.result s holds.1, holds.2.congr ⟨rfl, rfl, rfl, rfl, rfl, rfl, rfl, rfl, rfl⟩⟩
  data s v d holds := ⟨bus_sequence.data s v d holds.1, holds.2.congr ⟨rfl, rfl, rfl, rfl, rfl, rfl, rfl, rfl, rfl⟩⟩

/-! ## The timer -/

theorem onTimer_workRange {left : Nat} {s t : State} (work : WorkRange left s) (next : onTimer s = .next t) :
    WorkRange left t := by
  unfold onTimer at next
  split at next
  case h_1 =>
    cases next
    exact work
  case h_2 =>
    split at next
    case isTrue seeking =>
      split at next
      · exact nomatch next
      · exact (seekStep_outcome next).workRange work.loose seeking
    case isFalse =>
      cases next
      exact work
  case h_3 =>
    cases next
    exact postSeek_workRange work.loose
  case h_4 =>
    cases next
    exact latch_workRange _ work.loose

/-! ## A chunk -/

theorem setDriveOut_sameWork (v : Byte) (s : State) : SameWork s (setDriveOut v s) :=
  ⟨setDriveOut_cfg v s, setDriveOut_params v s, setDriveOut_nexp v s, setDriveOut_fsm v s, setDriveOut_nbits v s,
    setDriveOut_op v s, setDriveOut_seek v s, setDriveOut_cap v s, congrArg WriteWork.skipDone (setDriveOut_wr v s)⟩

theorem countUnload_workRange {left : Nat} {s : State} (work : WorkRange left s) : WorkRange left (countUnload s) := by
  unfold countUnload
  split
  · exact work
  · split
    · have ended : WorkRange left { s with unload := none } := work.congr ⟨rfl, rfl, rfl, rfl, rfl, rfl, rfl, rfl, rfl⟩
      exact ended.congr (setDriveOut_sameWork _ _)
    · exact work.congr ⟨rfl, rfl, rfl, rfl, rfl, rfl, rfl, rfl, rfl⟩

theorem onIndexEdge_workRange {left : Nat} {s : State} (work : WorkRange left s) : WorkRange left (onIndexEdge s) := by
  have counted : WorkRange left (countIndex s) := work.congr ⟨rfl, rfl, rfl, rfl, rfl, rfl, rfl, rfl, rfl⟩
  cases state : s.fsm
  case idle | params =>
    rw [onIndexEdge_unloads (by simp [state])]
    exact countUnload_workRange work
  case searchId =>
    rw [onIndexEdge_searchId state]
    split
    · exact complete_workRange _ counted.loose
    · exact counted
  case inId | searchData =>
    rw [onIndexEdge_counts (by simp [state])]
    exact counted
  case formatWaitIndex =>
    rw [onIndexEdge_formatWaitIndex state]
    have begun : LooseRange { s with fsm := .formatWrite, wr := { s.wr with
        wseq := formatSequence s.op, fifo := [], hostLeft := 4 * s.op.count, fmtDone := false } } :=
      work.loose.congr rfl rfl rfl rfl rfl rfl rfl
    exact LooseRange.elsewhere (s := startFormat s) ((setDriveOut_loose _ begun).congr rfl rfl rfl rfl rfl rfl rfl)
      (by rw [startFormat_fsm]; rfl)
  case formatWrite =>
    rw [onIndexEdge_formatWrite state]
    split
    · exact complete_workRange _ work.loose
    · exact work
  all_goals
    rw [onIndexEdge_ignored (by simp [state])]
    exact work

theorem sampleIndex_workRange {left : Nat} (n : DriveId) {s : State} (work : WorkRange left s) :
    WorkRange left (sampleIndex n s) := by
  have sampled : WorkRange left { s with lastIndex := s.index n } :=
    work.congr ⟨rfl, rfl, rfl, rfl, rfl, rfl, rfl, rfl, rfl⟩
  rw [sampleIndex_eq]
  split
  · exact onIndexEdge_workRange sampled
  · exact sampled

theorem Encoded.loose {s t : State} (encoded : Encoded s t) (loose : LooseRange s) : LooseRange t := by
  rw [encoded.rest, encoded.crc]
  exact ⟨loose.params_range, loose.window_range, loose.size_range, loose.count_range, loose.steps_range, loose.id_range⟩

theorem emit_workRange {left : Nat} {n : DriveId} {k : Nat} {s t : State} (loose : LooseRange s)
    (writes : s.fsm.writes = true) (next : emit n k s = .next t) : WorkRange left t := by
  have encoded := encodeNext_encoded k s
  have still := encoded.loose loose
  rcases emit_next next with ⟨_, rfl⟩ | ⟨_, v, written, rfl⟩
  · exact complete_workRange _ still
  · have frame := writePulses_frame written
    have same_fsm : (v.dropSlots k).fsm = s.fsm := by
      rw [State.dropSlots, frame]
      exact encoded.fsm
    have handed : LooseRange (v.dropSlots k) := by
      rw [State.dropSlots, frame]
      exact still.congr rfl rfl rfl rfl rfl rfl rfl
    unfold endWrite
    split
    · exact nextSector_workRange (setDriveOut_loose _ handed)
    · refine handed.elsewhere ?_
      rw [same_fsm]
      rcases (Fsm.writes_iff s.fsm).mp writes with f | f <;> rw [f] <;> rfl

/-! ## A rotation -/

theorem delivering_sameWork (n : DriveId) (s : State) : SameWork s (delivering n s) := by
  have word : SameWork s (deliveredWord n s).2 := by
    rcases (deliveredWord_delivers n s).2 with same | drawn
    · rw [same]
      exact ⟨rfl, rfl, rfl, rfl, rfl, rfl, rfl, rfl, rfl⟩
    · rw [drawn]
      exact ⟨rfl, rfl, rfl, rfl, rfl, rfl, rfl, rfl, rfl⟩
  cases n <;> exact ⟨word.cfg, word.params, word.nexp, word.fsm, word.nbits, word.op, word.seek, word.cap, word.skip⟩

theorem onRotation_workRange {n : DriveId} {s t : State} (work : WorkRange 32 s) (next : onRotation n s = .next t) :
    WorkRange 32 t := by
  rcases onRotation_next next with rfl | ⟨w, len, u, taken, rfl⟩
  · cases n <;> exact work.congr ⟨rfl, rfl, rfl, rfl, rfl, rfl, rfl, rfl, rfl⟩
  have delivered := work.congr (delivering_sameWork n s)
  have pulsed : WorkRange 32 u := by
    rcases onPulses_next taken with rfl | ⟨_, ⟨_, rfl⟩ | ⟨writes, emitted⟩⟩
    · exact delivered
    · exact readChunk_workRange w (sampleIndex_workRange n delivered)
    · exact emit_workRange (sampleIndex_workRange n delivered).loose writes emitted
  obtain ⟨_, _, _, turned⟩ := advanceHead_frame n len u
  rw [turned]
  exact pulsed.congr ⟨rfl, rfl, rfl, rfl, rfl, rfl, rfl, rfl, rfl⟩

/-! ## The statement -/

theorem step_workRange {s t : State} (sequence : s.SequenceInv) (work : WorkRange 32 s) (next : step s = .next t) :
    WorkRange 32 t := by
  have same {u : State} (same : SameWork s u) : WorkRange 32 u := work.congr same
  cases step_event next with
  | rests => exact work
  | access _ rest _ _ _ run =>
    exact (exec_leadsTo bus_workRange run
      ⟨sequence.later rest, by exact same ⟨rfl, rfl, rfl, rfl, rfl, rfl, rfl, rfl, rfl⟩⟩).2
  | timer _ _ _ _ run => exact onTimer_workRange (by exact same ⟨rfl, rfl, rfl, rfl, rfl, rfl, rfl, rfl, rfl⟩) run
  | rotation n _ _ _ _ run =>
    exact onRotation_workRange (by exact same ⟨rfl, rfl, rfl, rfl, rfl, rfl, rfl, rfl, rfl⟩) run
  | loads n => cases n <;> exact same ⟨rfl, rfl, rfl, rfl, rfl, rfl, rfl, rfl, rfl⟩
  | resets => exact resetController_workRange _
  | clock | builds | protects => exact same ⟨rfl, rfl, rfl, rfl, rfl, rfl, rfl, rfl, rfl⟩

/-- Settles O59: the ranges of the world and those of the controller's work, each kept by every step. -/
theorem stepKeepsTheRanges : Obligations.StepKeepsTheRanges := by
  intro s t sequence range next
  obtain ⟨world, work⟩ := (rangeInv_iff s).mp range
  have after := step_worldRange next world
  refine ⟨(rangeInv_iff t).mpr ⟨?_, step_workRange sequence work next⟩, after.cfg⟩
  rw [after.cfg]
  exact after

end Sys2Proof.Machine
end
